-- ==== Sys2Proof/Word.lean ====
section
/-! DEFINITION. The word and the byte of MDEC: every register and every host access is 32 bits wide (10_state R22, 20_memory R70), an octet is a byte (20_memory R78). -/

namespace Sys2Proof

/-- One register or one bus word: 32 bits (10_state R22). -/
abbrev Word := BitVec 32

/-- One octet, one byte of OUTBUF (20_memory R78, R79). -/
abbrev Byte := BitVec 8

end Sys2Proof
end

