-- ==== Sys2Proof/Config.lean ====
section
/-! DEFINITION. What one build of MDEC fixes: the parameters of 00_scope R8, the constants of 00_scope R9, and the free values of the spec (constants without a body, so that nothing can evaluate them). -/

namespace Sys2Proof

/-- The implementation parameters (00_scope R8), which a model takes as arguments. The two depths are powers of two and are
held as their logarithms, as `PARAMS` reports them (10_state R25). -/
structure Params where
  /-- `VW`: width of the signed voltage code on stream S. -/
  vw : Nat
  /-- `TAGW`: width of the opaque sample tag. -/
  tagw : Nat
  /-- log2 of `BITBUF_DEPTH`. -/
  bbLog2 : Nat
  /-- log2 of `OUTBUF_DEPTH`. -/
  obLog2 : Nat
deriving DecidableEq, Repr

/-- The legal values of 00_scope R8. -/
abbrev Params.Legal (p : Params) : Prop :=
  (2 ≤ p.vw ∧ p.vw ≤ 32) ∧ p.tagw ≤ 64 ∧ (6 ≤ p.bbLog2 ∧ p.bbLog2 ≤ 17) ∧ (6 ≤ p.obLog2 ∧ p.obLog2 ≤ 15)

/-- `BITBUF_DEPTH`, in bits (00_scope R8). -/
def Params.bitbufDepth (p : Params) : Nat := 2 ^ p.bbLog2

/-- `OUTBUF_DEPTH`, in bytes (00_scope R8). -/
def Params.outbufDepth (p : Params) : Nat := 2 ^ p.obLog2

/-- The defaults of 00_scope R8. -/
def Params.default : Params := { vw := 16, tagw := 64, bbLog2 := 14, obLog2 := 13 }

/-- `ID`, the ASCII bytes of MDEC (10_state R23). -/
def Config.idWord : Word := 0x4D444543

/-- `VERSION` of the command set (10_state R24). -/
def Config.versionWord : Word := 0x00000001

/-- `MIN_BITS` (00_scope R9): termination needs at least this many committed bits. -/
def Config.minBits : Nat := 6

/-- `ALIGN_WIN` (00_scope R9), in samples. -/
def Config.alignWin : Nat := 125

/-- The length of `PATTERN`, in bits (00_scope R9). -/
def Config.patternLen : Nat := 48

/-- `PATTERN` as a number, its first bit the most significant (00_scope R9). -/
def Config.pattern : BitVec 48 := 0xAAAAAAAAAAAB

/-- `NOBIT`, and the value of `FRAME_OFFSET` when nothing was found (10_state R40, R50). -/
def Config.noIndex : Word := 0xFFFFFFFF

/-- FREE VALUE: the stream of bytes that draws deliver, one for each count of `State.draws`. The spec says of an unwritten
OUTBUF byte, of an OUTBUF byte read while `BUSY` = 1, and of a read under reset that it reads as any value (20_memory R80,
R85; 70 R260, R262). Log entry 5. -/
opaque Config.draw : Nat → Byte

/-- FREE VALUE: what a BITBUF bit holds that no capture has written since reset ("unspecified; never observable", 10_state
R54, 20_memory R76). Log entry 6. -/
opaque Config.bitPowerOn : Nat → Bool

/-- OPEN: which 64 KiB page of the platform's address space holds MDEC (20_memory R70, 92 D11). Log entry 17. -/
opaque Config.mdecPage : Nat

/-- `MDEC_BASE`, 64 KiB aligned (92, OPEN parameters). -/
def Config.mdecBase : Nat := 65536 * Config.mdecPage

/-- OPEN: the platform interrupt line that `irq` drives (`MDEC_IRQ_LINE`, 60 R235). Log entry 17. -/
opaque Config.mdecIrqLine : Nat

end Sys2Proof
end

