-- ==== Sys2Proof/Syntax.lean ====
section
/-! DEFINITION. The MDEC command set, version 1: one constructor for each row of spec/opcode_table.json (30_encoding R103), with the fields `R` and `PAD` for the commands that use them (R101, R102). -/

namespace Sys2Proof

/-- A command. `r` is the field `R` (reverse the bits of each octet), `pad` the field `PAD` (least number of hex digits). A
command that ignores a field has no argument for it (30_encoding R105). -/
inductive Instr where
  /-- no operation (40 R130) -/
  | nop
  /-- abort and return to the initial state (40 R131) -/
  | clear
  /-- start a capture (42 R153) -/
  | decode
  /-- polarity of OPA (41 R143) -/
  | sign
  /-- OPA bounded to OPB .. OPC (41 R144) -/
  | clamp
  /-- do OPA and OPB differ in polarity (41 R145) -/
  | edge
  /-- find the frame start (44 R190) -/
  | locate
  /-- BitString range to octets (45 R201) -/
  | chunk (r : Bool)
  /-- reverse one octet (45 R202) -/
  | revb
  /-- one octet as hex text (45 R204) -/
  | hexb (pad : Nat)
  /-- BitString range as colon-joined hex text (45 R205) -/
  | addr (r : Bool) (pad : Nat)
deriving DecidableEq, Repr

end Sys2Proof
end

