-- ==== Sys2Proof/WellFormed.lean ====
section
/-! DEFINITION. Which commands the command word can say: `PAD` is a three-bit field (30_encoding R100, R102). -/

namespace Sys2Proof

/-- `PAD` is 0 to 7 (30_encoding R102). -/
def padFits (pad : Nat) : Bool := pad < 8

/-- The command has a command word (30_encoding R100): its `PAD`, where it has one, fits the field. -/
def Instr.wellFormed (i : Instr) : Bool :=
  match i with
  | .hexb pad => padFits pad
  | .addr _ pad => padFits pad
  | .nop | .clear | .decode | .sign | .clamp | .edge | .locate | .chunk _ | .revb => true

end Sys2Proof
end

