-- ==== Sys2Proof/Decode.lean ====
section
/-! DEFINITION. The decoder of the command word (30_encoding R100, R103, R104, R109), total over all words, and the encoder from the same table. -/

namespace Sys2Proof

/-- Why a word is no command (30_encoding R104). Both complete as `BADCMD`. -/
inductive DecodeError where
  /-- one of the bits [31:12] is set -/
  | reservedBits
  /-- the opcode is not in the table of R103 -/
  | reservedOpcode
deriving DecidableEq, Repr

/-- Field `OP`, bits [7:0] (30_encoding R100). -/
def opField (w : Word) : BitVec 8 := w.extractLsb' 0 8

/-- Field `R`, bit 8 (30_encoding R101). -/
def rField (w : Word) : Bool := w.getLsbD 8

/-- Field `PAD`, bits [11:9] (30_encoding R102). -/
def padField (w : Word) : BitVec 3 := w.extractLsb' 9 3

/-- The reserved bits [31:12] (30_encoding R100). -/
def reservedField (w : Word) : BitVec 20 := w.extractLsb' 12 20

/-- The opcode map (30_encoding R103, R109): the command of an opcode with its fields `R` and `PAD`. -/
def decodeFields (op : BitVec 8) (r : Bool) (pad : BitVec 3) : Option Instr :=
  if op = 0x00 then some .nop
  else if op = 0x01 then some .clear
  else if op = 0x02 then some .decode
  else if op = 0x10 then some .sign
  else if op = 0x11 then some .clamp
  else if op = 0x12 then some .edge
  else if op = 0x20 then some .locate
  else if op = 0x30 then some (.chunk r)
  else if op = 0x31 then some .revb
  else if op = 0x32 then some (.hexb pad.toNat)
  else if op = 0x33 then some (.addr r pad.toNat)
  else none

/-- `decode(w)` of 30_encoding R109, with the reason of a refusal (R104). -/
def decodeWord (w : Word) : Except DecodeError Instr :=
  if reservedField w ≠ 0 then .error .reservedBits
  else
    match decodeFields (opField w) (rField w) (padField w) with
    | some i => .ok i
    | none => .error .reservedOpcode

/-- The command read from a word numbered as spec/opcode_table.json numbers it. A command is one word of 32 bits, so a number
that needs more bits is no command. -/
def decodeTableWord (nbits w : Nat) : Option Instr :=
  if nbits ≤ 32 ∧ w < 2 ^ 32 then
    match decodeWord (BitVec.ofNat 32 w) with
    | .ok i => some i
    | .error _ => none
  else none

/-- The opcode of a command (30_encoding R103). -/
def opcodeOf (i : Instr) : BitVec 8 :=
  match i with
  | .nop => 0x00
  | .clear => 0x01
  | .decode => 0x02
  | .sign => 0x10
  | .clamp => 0x11
  | .edge => 0x12
  | .locate => 0x20
  | .chunk _ => 0x30
  | .revb => 0x31
  | .hexb _ => 0x32
  | .addr _ _ => 0x33

/-- The field `R` a command's word holds; 0 where the command ignores it (30_encoding R110). -/
def rOf (i : Instr) : Bool :=
  match i with
  | .chunk r => r
  | .addr r _ => r
  | .nop | .clear | .decode | .sign | .clamp | .edge | .locate | .revb | .hexb _ => false

/-- The field `PAD` a command's word holds; 0 where the command ignores it (30_encoding R110). -/
def padOf (i : Instr) : Nat :=
  match i with
  | .hexb pad => pad
  | .addr _ pad => pad
  | .nop | .clear | .decode | .sign | .clamp | .edge | .locate | .chunk _ | .revb => 0

/-- The command word of a well-formed command: reserved bits, `PAD`, `R`, `OP` (30_encoding R100). -/
def encode (i : Instr) : Word :=
  (0 : BitVec 20) ++ BitVec.ofNat 3 (padOf i) ++ BitVec.ofBool (rOf i) ++ opcodeOf i

/-- The bits of a command word that its command reads: `OP` and the reserved bits always, `R` and `PAD` where the command uses
them (30_encoding R103, R105). -/
def usedBits (i : Instr) : Word :=
  match i with
  | .nop | .clear | .decode | .sign | .clamp | .edge | .locate | .revb => 0xFFFFF0FF
  | .chunk _ => 0xFFFFF1FF
  | .hexb _ => 0xFFFFFEFF
  | .addr _ _ => 0xFFFFFFFF

/-- Which commands are multi-cycle (30_encoding R103, 20_memory R84). -/
def Instr.isMultiCycle (i : Instr) : Bool :=
  match i with
  | .locate | .chunk _ | .hexb _ | .addr _ _ => true
  | .nop | .clear | .decode | .sign | .clamp | .edge | .revb => false

end Sys2Proof
end

