-- ==== Sys2Proof/Machine/State.lean ====
section
/-! DEFINITION. The state of MDEC as plain data (10_state R54), the environment's queues and what it has seen, the reset state (70 R261), and the reasons a step can stop. -/

namespace Sys2Proof.Machine

/-- A polarity, the result of `sign` (00_scope R14); the code 0b10 is never produced and is no value here (93 I11). -/
inductive Polarity where
  | neg
  | zero
  | pos
deriving DecidableEq, Repr

/-- The decoder state `DSTATE` (10_state R27); the value 3 is never taken and is no value here (93 I11). -/
inductive DState where
  /-- no capture is being taken -/
  | idle
  /-- decoding -/
  | run
  /-- terminated: the rest of the capture is accepted and discarded -/
  | drain
deriving DecidableEq, Repr

/-- The result code of a command (60 R231); the codes 7 to 15 are never produced and are no values here (93 I11). -/
inductive ErrCode where
  /-- 0, success -/
  | ok
  /-- 1, LEN is no multiple of 8 -/
  | malformed
  /-- 2, no match of the pattern -/
  | notFound
  /-- 3, a range passes BITLEN or OUTBUF_DEPTH -/
  | range
  /-- 4, reserved opcode or reserved bits -/
  | badCmd
  /-- 5, the decoder is in a state the command cannot run in -/
  | conflict
  /-- 6, CLAMP with lo > hi -/
  | badArg
deriving DecidableEq, Repr

/-- One beat of input stream S (20_memory R74) on lanes of the greatest legal width: the low `VW` bits of `voltage` and the
low `TAGW` bits of `tag` are the beat's, lanes above them are not wired (log entry 4). -/
structure Beat where
  voltage : Word
  tag : BitVec 64
  last : Bool
deriving DecidableEq, Repr

/-- One beat of output stream B (20_memory R75): a committed bit. -/
structure BBeat where
  value : Bool
  index : Word
  sidx : Word
  tag : BitVec 64
deriving DecidableEq, Repr

/-- One beat of output stream A (20_memory R75): an annotated sample. -/
structure ABeat where
  sidx : Word
  tag : BitVec 64
  voltage : Word
  present : Bool
  bitIndex : Word
  bitValue : Bool
deriving DecidableEq, Repr

/-- One host access of the register space, at a byte offset from the block base (30_encoding R108, 20_memory R70). -/
inductive HostOp where
  | read (offset : BitVec 16)
  | write (offset : BitVec 16) (data : Word)
deriving DecidableEq, Repr

/-- What the environment does in one clock cycle. There is at most one host access in a cycle (70 R272), and a beat is
offered, not delivered: MDEC takes it only when it is ready (20_memory R74). -/
structure Cycle where
  /-- the reset input is asserted (70 R260) -/
  rst : Bool
  /-- `s_valid`: the sample source offers the first beat it holds (20_memory R74) -/
  sValid : Bool
  /-- a completion of the command engine falls in this cycle, if one is enabled (60 R236) -/
  complete : Bool
  /-- the host's access (20_memory R70) -/
  host : Option HostOp
deriving DecidableEq, Repr

/-- The command latch `L` (10_state R51): the fields of the issued command word and the operands latched at its issue, `n` of
LOCATE among them (44 R190; log entry 9). -/
structure Latch where
  op : BitVec 8
  r : Bool
  pad : BitVec 3
  src : Word
  len : Word
  dst : Word
  opa : Word
  opb : Word
  opc : Word
  /-- `BITLEN` at the issue, the operand `n` of LOCATE (44 R190) -/
  bitlen : Nat
deriving DecidableEq, Repr

/-- Why the machine stops. MDEC raises no trap (60 R230), so no command and no input of the spec raises one. -/
inductive Fault where
  /-- Raised by the command engine's completion in a state no run from reset reaches: `BUSY` = 1 while the latch holds no
  command. Safe: the model stops where the spec gives nothing, and the invariant `EngineHolds` rules the state out. -/
  | emptyLatch
deriving DecidableEq, Repr

/-- Why an instruction has no meaning. No arm of `exec` answers with one. -/
inductive Refusal where
  /-- Raised by an arm of `exec` whose instruction has no meaning yet. Safe: nothing is claimed of the instruction. -/
  | notModelled (mnemonic : String)
deriving DecidableEq, Repr

/-- The state of MDEC (10_state R54), the build's parameters, and the model's own record of the environment. -/
structure State where
  /-- `DSTATE` (10_state R27) -/
  dstate : DState
  /-- `BUSY` (R27, R51) -/
  busy : Bool
  /-- `DONE` (R27) -/
  done : Bool
  /-- `TERM` (R27) -/
  term : Bool
  /-- `OVF` (R27) -/
  ovf : Bool
  /-- `FOUND` (R27) -/
  found : Bool
  /-- `ERR.CODE` (R29) -/
  err : ErrCode
  /-- `IRQ_STATUS`, bits [4:0] (R30) -/
  irqStatus : BitVec 5
  /-- `IRQ_ENABLE`, bits [4:0] (R31) -/
  irqEnable : BitVec 5
  /-- `CTRL.ALIGN_EN` (R26) -/
  alignEn : Bool
  /-- `EDGE_THR` (R32) -/
  edgeThr : Word
  /-- `GAP_THR` (R33) -/
  gapThr : Word
  /-- `TCNT` (R34) -/
  tcnt : Word
  /-- `GAPCNT` (R35) -/
  gapcnt : Word
  /-- `LASTPOL` (R36) -/
  lastpol : Polarity
  /-- `BITCNT` (R37) -/
  bitcnt : Word
  /-- `SIDX` (R39) -/
  sidx : Word
  /-- `FRAME_OFFSET` (R40) -/
  frameOffset : Word
  /-- `SRC` (R41) -/
  src : Word
  /-- `LEN` (R42) -/
  len : Word
  /-- `DST` (R43) -/
  dst : Word
  /-- `OUTLEN` (R44) -/
  outlen : Word
  /-- `OPA` (R45) -/
  opa : Word
  /-- `OPB` (R46) -/
  opb : Word
  /-- `OPC` (R47) -/
  opc : Word
  /-- `RESULT` (R48) -/
  result : Word
  /-- `AHAVE` (R49) -/
  ahave : Bool
  /-- `AVAL` (R49) -/
  aval : Bool
  /-- `ASINCE` (R49) -/
  asince : BitVec 8
  /-- `AIDX` (R50) -/
  aidx : Word
  /-- the command latch `L` (R51) -/
  latch : Latch
  /-- BITBUF (20_memory R76): the bits written since reset, by rising index -/
  bitbuf : List (Nat × Bool)
  /-- OUTBUF (20_memory R79, R80): the bytes written since reset, by rising index; an unlisted byte is unwritten -/
  outbuf : List Host.Cell
  /-- the build's parameters (00_scope R8); nothing changes them -/
  params : Params
  /-- the model's own: the `IRQ_STATUS` bits a set event has hit in this clock cycle (60 R238; log entry 8) -/
  irqSetNow : BitVec 5
  /-- the model's own: how many bytes of `Config.draw` have been drawn (20_memory R80; log entry 5) -/
  draws : Nat
  /-- the environment: the beats the sample source still holds, the first to be delivered first (20_memory R74) -/
  source : List Beat
  /-- the environment: what it does in the coming clock cycles, the next one first (log entry 2) -/
  inputs : List Cycle
  /-- the environment: the stream-B beats emitted so far, the newest first (20_memory R75) -/
  streamB : List BBeat
  /-- the environment: the stream-A beats emitted so far, the newest first (20_memory R75) -/
  streamA : List ABeat
  /-- the environment: the words host reads have returned, with their offsets, the newest first (20_memory R70) -/
  reads : List (BitVec 16 × Word)
deriving DecidableEq, Repr

/-- The latch after reset: the spec gives none ("unspecified; never read while BUSY = 0", 10_state R54). DESIGN CHOICE, log
entry 7. -/
def Latch.reset : Latch :=
  { op := 0, r := false, pad := 0, src := 0, len := 0, dst := 0, opa := 0, opb := 0, opc := 0, bitlen := 0 }

/-- The machine right after reset (10_state R54, 70 R261), in the default build (00_scope R8), with an environment that has
done nothing yet. -/
def State.reset : State :=
  { dstate := .idle, busy := false, done := false, term := false, ovf := false, found := false,
    err := .ok, irqStatus := 0, irqEnable := 0, alignEn := true, edgeThr := 70, gapThr := 150,
    tcnt := 0, gapcnt := 0, lastpol := .neg, bitcnt := 0, sidx := 0, frameOffset := 0xFFFFFFFF,
    src := 0, len := 0, dst := 0, outlen := 0, opa := 0, opb := 0xFFFFFFFF, opc := 0x00000001, result := 0,
    ahave := false, aval := false, asince := 0, aidx := 0xFFFFFFFF,
    latch := Latch.reset, bitbuf := [], outbuf := [], params := Params.default,
    irqSetNow := 0, draws := 0, source := [], inputs := [], streamB := [], streamA := [], reads := [] }

end Sys2Proof.Machine
end

