-- ==== Sys2Proof/Machine/Ops.lean ====
section
/-! DEFINITION. The named operations over registers and buffers: indexed cells in canonical form, BITBUF and OUTBUF, the interrupt set events, the completion of a command (MDEC's way of taking an exception, 60 R236) and the acknowledge of an interrupt (its return, 60 R238). -/

namespace Sys2Proof.Machine

/-- An OUTBUF's memory: the written bytes, by strictly rising index (20_memory R79, R80). -/
abbrev Memory := List Host.Cell

/-- The content of the cell at index `a`; none where nothing has been written. -/
def cellsGet {α : Type} (a : Nat) (cs : List (Nat × α)) : Option α :=
  match cs with
  | [] => none
  | (b, w) :: rest => if a = b then some w else cellsGet a rest

/-- Write the cell at index `a`, keeping the indices rising. -/
def cellsSet {α : Type} (a : Nat) (v : α) (cs : List (Nat × α)) : List (Nat × α) :=
  match cs with
  | [] => [(a, v)]
  | (b, w) :: rest =>
    if a < b then (a, v) :: (b, w) :: rest
    else if a = b then (a, v) :: rest
    else (b, w) :: cellsSet a v rest

/-- The canonical form of cells: indices strictly rising, all at least `lo`. An unlisted cell is unwritten and holds no value,
so no listed cell equals what an unlisted one reads as. -/
def cellsRisingFrom {α : Type} (lo : Nat) (cs : List (Nat × α)) : Bool :=
  match cs with
  | [] => true
  | (b, _) :: rest => decide (lo ≤ b) && cellsRisingFrom (b + 1) rest

/-- The canonical form of OUTBUF's memory. -/
def Memory.wf (m : Memory) : Bool := cellsRisingFrom 0 m

/-- The canonical form of BITBUF's cells. -/
def bitCellsWf (cs : List (Nat × Bool)) : Bool := cellsRisingFrom 0 cs

/-- `BITLEN`, the length of the BitString: min(BITCNT, BITBUF_DEPTH) (10_state R38). -/
def bitLen (s : State) : Nat := min s.bitcnt.toNat s.params.bitbufDepth

/-- `BitRead(i)` (00_scope R13). A bit nothing has written holds the free value of log entry 6. -/
def bitRead (s : State) (i : Nat) : Bool := (cellsGet i s.bitbuf).getD (Config.bitPowerOn i)

/-- `BitWrite(i, b)` (00_scope R13). -/
def bitWrite (i : Nat) (b : Bool) (s : State) : State := { s with bitbuf := cellsSet i b s.bitbuf }

/-- The content of OUTBUF byte `i`; none for a byte still unwritten (20_memory R80). -/
def outRead (s : State) (i : Nat) : Option Byte := cellsGet i s.outbuf

/-- `OutWrite(i, byte)` (00_scope R13). -/
def outWrite (i : Nat) (b : Byte) (s : State) : State := { s with outbuf := cellsSet i b s.outbuf }

/-- `OutWrite` of consecutive bytes from byte index `i`, the first first. -/
def outWriteAll (i : Nat) (bs : List Byte) (s : State) : State :=
  match bs with
  | [] => s
  | b :: rest => outWriteAll (i + 1) rest (outWrite i b s)

/-- `IRQ_STATUS.DEC_DONE`, bit 0 (10_state R30). -/
def irqDecDone : BitVec 5 := 0b00001

/-- `IRQ_STATUS.DEC_TERM`, bit 1 (10_state R30). -/
def irqDecTerm : BitVec 5 := 0b00010

/-- `IRQ_STATUS.CMD_DONE`, bit 2 (10_state R30). -/
def irqCmdDone : BitVec 5 := 0b00100

/-- `IRQ_STATUS.CMD_ERR`, bit 3 (10_state R30). -/
def irqCmdErr : BitVec 5 := 0b01000

/-- `IRQ_STATUS.DROP`, bit 4 (10_state R30). -/
def irqDrop : BitVec 5 := 0b10000

/-- A set event of `IRQ_STATUS` bits (60 R234): the bits become set, whether or not they are enabled (R235), and they are
noted as set in this clock cycle (R238). -/
def raiseIrq (bits : BitVec 5) (s : State) : State :=
  { s with irqStatus := s.irqStatus ||| bits, irqSetNow := s.irqSetNow ||| bits }

/-- The `IRQ_STATUS` bits a completion with this code sets (60 R236). -/
def completionBits (c : ErrCode) : BitVec 5 :=
  match c with
  | .ok => irqCmdDone
  | .malformed | .notFound | .range | .badCmd | .conflict | .badArg => irqCmdDone ||| irqCmdErr

/-- `Complete(code)` (60 R236), and with an error code `raise CmdError(code)` (00_scope R13): `ERR`, `CMD_DONE` and, on an
error, `CMD_ERR`. The one operation by which a command reports. -/
def complete (c : ErrCode) (s : State) : State := raiseIrq (completionBits c) { s with err := c }

/-- The acknowledge of interrupts (60 R238): a write of `IRQ_STATUS` clears the bits written as 1, except those a set event has
hit in the same clock cycle. -/
def acknowledge (data : Word) (s : State) : State :=
  { s with irqStatus := s.irqStatus &&& ~~~(data.setWidth 5 &&& ~~~s.irqSetNow) }

/-- The initial state of the decoder and of the alignment unit, with the results of the previous capture gone: what DECODE and
CLEAR have in common (42 R153, 40 R131; `DSTATE` apart). -/
def clearCapture (s : State) : State :=
  { s with
    tcnt := 0, gapcnt := 0, lastpol := .neg, bitcnt := 0, sidx := 0,
    done := false, term := false, ovf := false, found := false, frameOffset := Config.noIndex,
    ahave := false, aval := false, asince := 0, aidx := Config.noIndex }

/-- Go on with the state a step left, unless it stopped. -/
def andThen (o : Host.Outcome State Fault Refusal) (f : State → Host.Outcome State Fault Refusal) :
    Host.Outcome State Fault Refusal :=
  match o with
  | .next s => f s
  | .fault r => .fault r
  | .refused r => .refused r

end Sys2Proof.Machine
end

