-- ==== Sys2Proof/Machine/Control.lean ====
section
/-! DEFINITION. The control commands NOP and CLEAR (40_control). -/

namespace Sys2Proof.Machine

/-- `NOP` (40 R130). -/
def execNop (s : State) : Host.Outcome State Fault Refusal := .next (complete .ok s)

/-- `CLEAR` (40 R131). -/
def execClear (s : State) : Host.Outcome State Fault Refusal :=
  .next (complete .ok { clearCapture s with dstate := .idle, outlen := 0, result := 0 })

end Sys2Proof.Machine
end

