-- ==== Sys2Proof/Machine/Bits.lean ====
section
/-! DEFINITION. Saturating counts, bit reversal and the numbers of octets and characters, as 00_scope R12 and 20_memory R78, R81 define them. -/

namespace Sys2Proof.Machine

/-- A saturating step of a 32-bit count: `sat32(v + 1)` (00_scope R12). -/
def satSucc32 (v : Word) : Word := if v = 0xFFFFFFFF then v else v + 1

/-- `min(v + 1, 255)` on 8 bits (43 R181). -/
def satSucc8 (v : BitVec 8) : BitVec 8 := if v = 0xFF then v else v + 1

/-- The byte of eight bits given as a function of their place, the first the most significant: the sum over k of
`bit k << (7 - k)` (20_memory R78). -/
def octetOf (bit : Nat → Bool) : Byte :=
  BitVec.ofNat 8 ((List.range 8).foldl (fun acc k => acc + (bit k).toNat * 2 ^ (7 - k)) 0)

/-- `bitrev8(o)`, with `bitrev8(o)[k] = o[7-k]` (20_memory R78): read from bit 0 as the first bit. -/
def bitrev8 (o : Byte) : Byte := octetOf (fun k => o.getLsbD k)

/-- The ASCII byte of a hexadecimal digit, lowercase (20_memory R81). -/
def hexDigit (d : Nat) : Byte := if d ≤ 9 then BitVec.ofNat 8 (0x30 + d) else BitVec.ofNat 8 (0x61 + (d - 10))

/-- The separator `:` (20_memory R81). -/
def colon : Byte := 0x3A

/-- The digit `0`, the padding of `HexStr` (45 R203). -/
def zeroDigit : Byte := hexDigit 0

end Sys2Proof.Machine
end

