-- ==== Sys2Proof/Machine/Alignment.lean ====
section
/-! DEFINITION. The bit-to-sample alignment: the step of every accepted beat and stream A (43_bit_alignment). -/

namespace Sys2Proof.Machine

/-- The voltage code on the `VW` wired lanes (20_memory R74), as the sample's own code on stream A (R75). -/
def wiredVoltage (p : Params) (b : Beat) : Word := (b.voltage.setWidth p.vw).setWidth 32

/-- The tag on the `TAGW` wired lanes (20_memory R74). -/
def wiredTag (p : Params) (b : Beat) : BitVec 64 := (b.tag.setWidth p.tagw).setWidth 64

/-- The alignment registers after a beat that committed the bit `committed`, or none (43 R181). -/
def alignUpdate (committed : Option (Bool × Word)) (s : State) : State :=
  match committed with
  | some (val, k) => { s with ahave := true, aidx := k, aval := val, asince := 0 }
  | none => { s with asince := satSucc8 s.asince }

/-- `present` of 43 R181: a bit has been committed and its sample is at most `ALIGN_WIN` samples back. -/
def alignPresent (s : State) : Bool := s.ahave && decide (s.asince.toNat ≤ Config.alignWin)

/-- The annotation beat of the current sample (43 R181, R183). -/
def annotation (b : Beat) (s : State) : ABeat :=
  { sidx := s.sidx, tag := wiredTag s.params b, voltage := wiredVoltage s.params b,
    present := alignPresent s,
    bitIndex := if alignPresent s then s.aidx else Config.noIndex,
    bitValue := alignPresent s && s.aval }

/-- `emit A` of the annotation beat, when `CTRL.ALIGN_EN` = 1 (43 R181, R184). -/
def emitA (b : Beat) (s : State) : State :=
  if s.alignEn then { s with streamA := annotation b s :: s.streamA } else s

/-- `AlignStep(committed, tag)` (43 R181). -/
def alignStep (committed : Option (Bool × Word)) (b : Beat) (s : State) : State :=
  emitA b (alignUpdate committed s)

end Sys2Proof.Machine
end

