-- ==== Sys2Proof/Machine/Flags.lean ====
section
/-! DEFINITION. The signal primitives (41 R140 to R142), the codes of polarity, decoder state and errors, and the words in which the host reads the flags (10_state R25 to R27, R29, R49), with the outputs `irq` and `s_ready`. -/

namespace Sys2Proof.Machine

/-- `sign(x)` (41 R140). -/
def sign (x : Int) : Polarity := if 0 < x then .pos else if x = 0 then .zero else .neg

/-- `clamp(x, lo, hi)` (41 R141), for lo ≤ hi. -/
def clamp (x lo hi : Int) : Int := if x < lo then lo else if hi < x then hi else x

/-- `edge(last, new)` (41 R142). -/
def edge (last new : Int) : Bool := decide (sign last ≠ sign new)

/-- The two-bit code of a polarity (00_scope R14). -/
def polarityCode (p : Polarity) : BitVec 2 :=
  match p with
  | .neg => 0b11
  | .zero => 0b00
  | .pos => 0b01

/-- The result word of SIGN (41 R143). -/
def polarityWord (p : Polarity) : Word :=
  match p with
  | .neg => 0xFFFFFFFF
  | .zero => 0x00000000
  | .pos => 0x00000001

/-- The code of `DSTATE` (10_state R27). -/
def dstateCode (d : DState) : BitVec 2 :=
  match d with
  | .idle => 0
  | .run => 1
  | .drain => 2

/-- The code in `ERR.CODE` (60 R231). -/
def errCode (c : ErrCode) : BitVec 4 :=
  match c with
  | .ok => 0
  | .malformed => 1
  | .notFound => 2
  | .range => 3
  | .badCmd => 4
  | .conflict => 5
  | .badArg => 6

/-- `STATUS` (10_state R27). -/
def statusWord (s : State) : Word :=
  (0 : BitVec 25) ++ BitVec.ofBool s.found ++ BitVec.ofBool s.ovf ++ BitVec.ofBool s.term ++ BitVec.ofBool s.done
    ++ BitVec.ofBool s.busy ++ dstateCode s.dstate

/-- `PARAMS` (10_state R25). -/
def paramsWord (p : Params) : Word :=
  (0 : BitVec 1) ++ BitVec.ofNat 7 p.tagw ++ (0 : BitVec 2) ++ BitVec.ofNat 6 p.vw ++ (0 : BitVec 3)
    ++ BitVec.ofNat 5 p.obLog2 ++ (0 : BitVec 3) ++ BitVec.ofNat 5 p.bbLog2

/-- `ALIGN_STATE` (10_state R49). -/
def alignStateWord (s : State) : Word :=
  (0 : BitVec 16) ++ s.asince ++ (0 : BitVec 6) ++ BitVec.ofBool s.aval ++ BitVec.ofBool s.ahave

/-- The interrupt output (60 R235): the or of the enabled status bits. -/
def irq (s : State) : Bool := decide (s.irqStatus &&& s.irqEnable ≠ 0)

/-- `s_ready` (20_memory R74): in RUN and DRAIN. -/
def sReady (s : State) : Bool :=
  match s.dstate with
  | .idle => false
  | .run | .drain => true

end Sys2Proof.Machine
end

