-- ==== Sys2Proof/Machine/Decoder.lean ====
section
/-! DEFINITION. The Manchester decoder: the DECODE command and the step of an accepted sample beat (42_manchester_decoder). -/

namespace Sys2Proof.Machine

/-- `DECODE` (42 R153). -/
def execDecode (s : State) : Host.Outcome State Fault Refusal :=
  match s.dstate with
  | .idle => .next (complete .ok { clearCapture s with dstate := .run })
  | .run | .drain => .next (complete .conflict s)

/-- The polarity of a sample: `sign(sext_32(s_voltage))` (30 R107, 42 R156). -/
def beatPolarity (p : Params) (b : Beat) : Polarity := sign ((b.voltage.setWidth p.vw).signExtend 32).toInt

/-- Source step 2: one sample period passes (42 R156). -/
def advanceCounts (s : State) : State :=
  { s with tcnt := satSucc32 s.tcnt, gapcnt := satSucc32 s.gapcnt }

/-- The termination condition of source step 3 (42 R158), after the counts have advanced. -/
def terminates (s : State) : Bool := decide (s.gapThr < s.gapcnt) && decide (Config.minBits ≤ s.bitcnt.toNat)

/-- Termination (42 R158). -/
def terminate (s : State) : State := raiseIrq irqDecTerm { s with dstate := .drain, term := true }

/-- Edge qualification, source step 4 (42 R159), after the counts have advanced. -/
def qualifies (p : Polarity) (s : State) : Bool := decide (s.edgeThr ≤ s.tcnt) && decide (s.lastpol ≠ p)

/-- The value of a bit committed on a sample of this polarity (42 R160). -/
def bitOf (p : Polarity) : Bool := decide (p = .pos)

/-- The bit into BITBUF, or `OVF` where BITBUF is full (42 R160, R164). -/
def storeBit (val : Bool) (s : State) : State :=
  if s.bitcnt.toNat < s.params.bitbufDepth then bitWrite s.bitcnt.toNat val s else { s with ovf := true }

/-- The stream-B beat of a bit committed now (42 R160, R165): its index is `BITCNT` in every state, at saturation too (log entry 10). -/
def commitBeat (p : Polarity) (b : Beat) (s : State) : BBeat :=
  { value := bitOf p, index := s.bitcnt, sidx := s.sidx, tag := wiredTag s.params b }

/-- `Commit(p, tag)` (42 R160). -/
def commit (p : Polarity) (b : Beat) (s : State) : State :=
  { storeBit (bitOf p) s with
    tcnt := 0, gapcnt := 0, bitcnt := satSucc32 s.bitcnt, streamB := commitBeat p b s :: s.streamB }

/-- `EndCapture()` on the beat flagged last (42 R163). -/
def endCapture (b : Beat) (s : State) : State :=
  if b.last then raiseIrq irqDecDone { s with dstate := .idle, done := true } else s

/-- The end of every accepted beat: alignment, the sample index, the end of the capture (42 R156, R162). -/
def finishBeat (committed : Option (Bool × Word)) (b : Beat) (s : State) : State :=
  let t := alignStep committed b s
  endCapture b { t with sidx := t.sidx + 1 }

/-- `RunStep(v, tag, last)` (42 R156). -/
def runStep (b : Beat) (s : State) : State :=
  let a := advanceCounts s
  let p := beatPolarity s.params b
  if terminates a then finishBeat none b (terminate a)
  else if qualifies p a then finishBeat (some (bitOf p, a.bitcnt)) b { commit p b a with lastpol := p }
  else finishBeat none b { a with lastpol := p }

/-- `DrainStep(v, tag, last)` (42 R162). -/
def drainStep (b : Beat) (s : State) : State := finishBeat none b s

/-- The step of a beat presented to the decoder (42 R155): in IDLE nothing is accepted. -/
def acceptBeat (b : Beat) (s : State) : State :=
  match s.dstate with
  | .idle => s
  | .run => runStep b s
  | .drain => drainStep b s

/-- The sample source offers the first beat it holds; MDEC takes it exactly when it is ready, and a beat it does not take stays
at the source (20_memory R74, 42 R155, 70 R268). -/
def takeBeat (s : State) : State :=
  match s.source with
  | [] => s
  | b :: rest => if sReady s then acceptBeat b { s with source := rest } else s

end Sys2Proof.Machine
end

