-- ==== Sys2Proof/Machine/Operands.lean ====
section
/-! DEFINITION. The operand forms: the latch and its command (30 R106), the octets of a BitString range (20 R78, 45 R200) and hexadecimal text (45 R203, R205). -/

namespace Sys2Proof.Machine

/-- The latch loaded at the issue of the word `w` (10_state R51, 60 R236), with `BITLEN` as it is then (44 R190). -/
def loadLatch (w : Word) (s : State) : Latch :=
  { op := opField w, r := rField w, pad := padField w,
    src := s.src, len := s.len, dst := s.dst, opa := s.opa, opb := s.opb, opc := s.opc,
    bitlen := bitLen s }

/-- The command the latch holds (60 R236). -/
def latchedInstr (l : Latch) : Option Instr := decodeFields l.op l.r l.pad

/-- `octet(i)`: eight BitString bits from index `i`, the first the most significant (20_memory R78). -/
def octet (s : State) (i : Nat) : Byte := octetOf (fun k => bitRead s (i + k))

/-- An octet with its bits reversed when `r` (30_encoding R101). -/
def maybeReverse (r : Bool) (o : Byte) : Byte := if r then bitrev8 o else o

/-- `SrcOctets(src, len, r)` (45 R200): the multiple-of-8 check, then the range check, then the octets. -/
def srcOctets (src len : Word) (r : Bool) (s : State) : Except ErrCode (List Byte) :=
  if len.toNat % 8 ≠ 0 then .error .malformed
  else if bitLen s < src.toNat + len.toNat then .error .range
  else .ok ((List.range (len.toNat / 8)).map (fun i => maybeReverse r (octet s (src.toNat + 8 * i))))

/-- `nd(o)`: digits of `o` with no leading zero (45 R203). -/
def hexDigits (o : Byte) : List Byte :=
  if o.toNat < 16 then [hexDigit o.toNat] else [hexDigit (o.toNat / 16), hexDigit (o.toNat % 16)]

/-- `HexStr(o, pad)` (45 R203): zero-padded to at least `pad` digits, never truncated. -/
def hexStr (o : Byte) (pad : Nat) : List Byte :=
  List.replicate (max pad (hexDigits o).length - (hexDigits o).length) zeroDigit ++ hexDigits o

/-- The text of ADDR (45 R205): the hex strings of the octets, joined by colons. -/
def addrText (pad : Nat) (os : List Byte) : List Byte :=
  match os with
  | [] => []
  | [o] => hexStr o pad
  | o :: rest => hexStr o pad ++ colon :: addrText pad rest

/-- The end of CHUNK, HEXB and ADDR (45 R201, R204, R205): the range check of the destination, then the bytes, `OUTLEN` and
the completion. -/
def storeOut (bytes : List Byte) (s : State) : State :=
  if s.params.outbufDepth < s.latch.dst.toNat + bytes.length then complete .range s
  else
    complete .ok { outWriteAll s.latch.dst.toNat bytes s with outlen := BitVec.ofNat 32 bytes.length }

end Sys2Proof.Machine
end

