-- ==== Sys2Proof/Machine/Formatter.lean ====
section
/-! DEFINITION. The octet formatter: CHUNK, REVB, HEXB, ADDR (45_octet_formatter). -/

namespace Sys2Proof.Machine

/-- `CHUNK` and `CHUNK.R` (45 R201). -/
def execChunk (r : Bool) (s : State) : Host.Outcome State Fault Refusal :=
  match s.dstate with
  | .run => .next (complete .conflict s)
  | .idle | .drain =>
    match srcOctets s.latch.src s.latch.len r s with
    | .error code => .next (complete code s)
    | .ok octets => .next (storeOut octets s)

/-- `REVB` (45 R202). -/
def execRevb (s : State) : Host.Outcome State Fault Refusal :=
  .next (complete .ok { s with result := (bitrev8 (s.latch.opa.setWidth 8)).setWidth 32 })

/-- `HEXB` (45 R204). -/
def execHexb (pad : Nat) (s : State) : Host.Outcome State Fault Refusal :=
  .next (storeOut (hexStr (s.latch.opa.setWidth 8) pad) s)

/-- `ADDR` and `ADDR.R` (45 R205). -/
def execAddr (r : Bool) (pad : Nat) (s : State) : Host.Outcome State Fault Refusal :=
  match s.dstate with
  | .run => .next (complete .conflict s)
  | .idle | .drain =>
    match srcOctets s.latch.src s.latch.len r s with
    | .error code => .next (complete code s)
    | .ok octets => .next (storeOut (addrText pad octets) s)

end Sys2Proof.Machine
end

