-- ==== Sys2Proof/Machine/Locator.lean ====
section
/-! DEFINITION. The frame boundary locator LOCATE (44_frame_locator). -/

namespace Sys2Proof.Machine

/-- Bit `k` of `PATTERN` (44 R191): 1 at the even places and at the last. -/
def patternBit (k : Nat) : Bool := decide (k % 2 = 0) || decide (k = 47)

/-- `Match(s)` (44 R191): the pattern stands in BITBUF from bit index `at0`. -/
def patternAt (s : State) (at0 : Nat) : Bool :=
  (List.range Config.patternLen).all (fun k => bitRead s (at0 + k) == patternBit k)

/-- The smallest index at which the pattern stands within BITBUF[0 .. n), with `n` latched at the issue (44 R190): the search
over `0 .. n - 48`, which is empty for n < 48. -/
def firstMatch (s : State) : Option Nat := (List.range (s.latch.bitlen + 1 - Config.patternLen)).find? (patternAt s)

/-- `LOCATE` (44 R190, R192). -/
def execLocate (s : State) : Host.Outcome State Fault Refusal :=
  match s.dstate with
  | .run => .next (complete .conflict s)
  | .idle | .drain =>
    match firstMatch s with
    | some at0 => .next (complete .ok { s with found := true, frameOffset := BitVec.ofNat 32 (at0 + Config.patternLen) })
    | none => .next (complete .notFound { s with found := false, frameOffset := Config.noIndex })

end Sys2Proof.Machine
end

