-- ==== Sys2Proof/Machine/Primitives.lean ====
section
/-! DEFINITION. The signal primitives as commands on the latched operands: SIGN, CLAMP, EDGE (41_signal_primitives). -/

namespace Sys2Proof.Machine

/-- `SIGN` (41 R143). -/
def execSign (s : State) : Host.Outcome State Fault Refusal :=
  .next (complete .ok { s with result := polarityWord (sign s.latch.opa.toInt) })

/-- `CLAMP` (41 R144): `BADARG` for an empty interval, by signed comparison. -/
def execClamp (s : State) : Host.Outcome State Fault Refusal :=
  if s.latch.opc.toInt < s.latch.opb.toInt then .next (complete .badArg s)
  else
    .next (complete .ok
      { s with result := BitVec.ofInt 32 (clamp s.latch.opa.toInt s.latch.opb.toInt s.latch.opc.toInt) })

/-- `EDGE` (41 R145). -/
def execEdge (s : State) : Host.Outcome State Fault Refusal :=
  .next (complete .ok
    { s with result := if edge s.latch.opa.toInt s.latch.opb.toInt then 0x00000001 else 0x00000000 })

end Sys2Proof.Machine
end

