-- ==== Sys2Proof/Machine/Dispatch.lean ====
section
/-! DEFINITION. `Execute(L)` of 60 R236: the pseudocode of a command's rule, run against the latched operands. One arm for each command. -/

namespace Sys2Proof.Machine

def exec (i : Instr) (s : State) : Host.Outcome State Fault Refusal :=
  match i with
  | .nop => Sys2Proof.Machine.execNop s
  | .clear => Sys2Proof.Machine.execClear s
  | .decode => Sys2Proof.Machine.execDecode s
  | .sign => Sys2Proof.Machine.execSign s
  | .clamp => Sys2Proof.Machine.execClamp s
  | .edge => Sys2Proof.Machine.execEdge s
  | .locate => Sys2Proof.Machine.execLocate s
  | .chunk r => Sys2Proof.Machine.execChunk r s
  | .revb => Sys2Proof.Machine.execRevb s
  | .hexb pad => Sys2Proof.Machine.execHexb pad s
  | .addr r pad => Sys2Proof.Machine.execAddr r pad s

end Sys2Proof.Machine
end

