-- ==== Sys2Proof/Machine/Engine.lean ====
section
/-! DEFINITION. The command engine: the issue of a command word and the completion of a multi-cycle command (60 R236, R237). -/

namespace Sys2Proof.Machine

/-- `Issue(w)` (60 R236): a host write of `w` to `CMD`. While `BUSY` = 1 it is dropped (R237). -/
def issue (w : Word) (s : State) : Host.Outcome State Fault Refusal :=
  if s.busy then .next (raiseIrq irqDrop s)
  else
    match decodeWord w with
    | .error _ => .next (complete .badCmd { s with latch := loadLatch w s })
    | .ok i =>
      if i.isMultiCycle then .next { s with latch := loadLatch w s, busy := true }
      else exec i { s with latch := loadLatch w s }

/-- `CompletionEvent()` (60 R236): enabled iff `BUSY` = 1. -/
def completionEvent (s : State) : Host.Outcome State Fault Refusal :=
  if s.busy then
    match latchedInstr s.latch with
    | none => .fault .emptyLatch
    | some i => andThen (exec i s) (fun t => .next { t with busy := false })
  else .next s

end Sys2Proof.Machine
end

