-- ==== Sys2Proof/Machine/Registers.lean ====
section
/-! DEFINITION. The register map (10_state R22 to R50) and the two read windows (20_memory R77, R79): what a host read of an offset returns. -/

namespace Sys2Proof.Machine

/-- The registers of 10_state R22. -/
inductive Reg where
  | id | version | params | ctrl | status | cmd | err | irqStatus | irqEnable | edgeThr | gapThr | tcnt | gapcnt | lastpol
  | bitcnt | bitlen | sidx | frameOffset | src | len | dst | outlen | opa | opb | opc | result | alignState | aidx
deriving DecidableEq, Repr

/-- The register at word index `k`, that is at byte offset 4k (10_state R22). -/
def regAt (k : Nat) : Option Reg :=
  [.id, .version, .params, .ctrl, .status, .cmd, .err, .irqStatus, .irqEnable, .edgeThr, .gapThr, .tcnt, .gapcnt, .lastpol,
   .bitcnt, .bitlen, .sidx, .frameOffset, .src, .len, .dst, .outlen, .opa, .opb, .opc, .result, .alignState, .aidx][k]?

/-- The byte offset of a register (10_state R22). -/
def regOffset (r : Reg) : BitVec 16 :=
  match r with
  | .id => 0x000
  | .version => 0x004
  | .params => 0x008
  | .ctrl => 0x00C
  | .status => 0x010
  | .cmd => 0x014
  | .err => 0x018
  | .irqStatus => 0x01C
  | .irqEnable => 0x020
  | .edgeThr => 0x024
  | .gapThr => 0x028
  | .tcnt => 0x02C
  | .gapcnt => 0x030
  | .lastpol => 0x034
  | .bitcnt => 0x038
  | .bitlen => 0x03C
  | .sidx => 0x040
  | .frameOffset => 0x044
  | .src => 0x048
  | .len => 0x04C
  | .dst => 0x050
  | .outlen => 0x054
  | .opa => 0x058
  | .opb => 0x05C
  | .opc => 0x060
  | .result => 0x064
  | .alignState => 0x068
  | .aidx => 0x06C

/-- What an offset of the register space names (20_memory R71). -/
inductive Place where
  /-- a register -/
  | register (r : Reg)
  /-- a reserved offset -/
  | reserved
  /-- word `k` of the BITBUF read window -/
  | bitWindow (k : Nat)
  /-- word `k` of the OUTBUF read window -/
  | outWindow (k : Nat)
deriving DecidableEq, Repr

/-- The register space map (20_memory R71). The word address is `addr[15:2]`: the low two bits are ignored (R70, R72). -/
def placeOf (offset : BitVec 16) : Place :=
  let k := offset.toNat / 4
  if k < 0x4000 / 4 then
    match regAt k with
    | some r => .register r
    | none => .reserved
  else if k < 0x8000 / 4 then .bitWindow (k - 0x4000 / 4)
  else .outWindow (k - 0x8000 / 4)

/-- The word a read of a register returns (10_state R23 to R50). -/
def readReg (r : Reg) (s : State) : Word :=
  match r with
  | .id => Config.idWord
  | .version => Config.versionWord
  | .params => paramsWord s.params
  | .ctrl => (BitVec.ofBool s.alignEn).setWidth 32
  | .status => statusWord s
  | .cmd => 0
  | .err => (errCode s.err).setWidth 32
  | .irqStatus => s.irqStatus.setWidth 32
  | .irqEnable => s.irqEnable.setWidth 32
  | .edgeThr => s.edgeThr
  | .gapThr => s.gapThr
  | .tcnt => s.tcnt
  | .gapcnt => s.gapcnt
  | .lastpol => (polarityCode s.lastpol).setWidth 32
  | .bitcnt => s.bitcnt
  | .bitlen => BitVec.ofNat 32 (bitLen s)
  | .sidx => s.sidx
  | .frameOffset => s.frameOffset
  | .src => s.src
  | .len => s.len
  | .dst => s.dst
  | .outlen => s.outlen
  | .opa => s.opa
  | .opb => s.opb
  | .opc => s.opc
  | .result => s.result
  | .alignState => alignStateWord s
  | .aidx => s.aidx

/-- The word of the BITBUF window at index `k` (20_memory R77): bit `j` is BitString bit `32k + j`, 0 at and above `BITLEN`. -/
def bitWindowWord (k : Nat) (s : State) : Word :=
  BitVec.ofNat 32
    ((List.range 32).foldl
      (fun acc j => acc + (if 32 * k + j < bitLen s then (bitRead s (32 * k + j)).toNat * 2 ^ j else 0)) 0)

/-- Byte `i` of the OUTBUF window (20_memory R79, R80, R85): a draw for every byte while `BUSY` = 1, 0 at and above
`OUTBUF_DEPTH`, a draw for a byte still unwritten. `j` is the place of the byte in the word read. -/
def outWindowByte (i j : Nat) (s : State) : Byte :=
  if s.busy then Config.draw (s.draws + j)
  else if i < s.params.outbufDepth then (outRead s i).getD (Config.draw (s.draws + j))
  else 0

/-- The word of the OUTBUF window at index `k`, little-endian (20_memory R79). -/
def outWindowWord (k : Nat) (s : State) : Word :=
  outWindowByte (4 * k + 3) 3 s ++ outWindowByte (4 * k + 2) 2 s ++ outWindowByte (4 * k + 1) 1 s ++ outWindowByte (4 * k) 0 s

/-- A word in which every byte is a draw (70 R260). -/
def drawnWord (s : State) : Word :=
  Config.draw (s.draws + 3) ++ Config.draw (s.draws + 2) ++ Config.draw (s.draws + 1) ++ Config.draw s.draws

/-- `MemRead(addr, 4)` at an offset (00_scope R13, 20_memory R70, R71, R73). -/
def readWord (offset : BitVec 16) (s : State) : Word :=
  match placeOf offset with
  | .register r => readReg r s
  | .reserved => 0
  | .bitWindow k => bitWindowWord k s
  | .outWindow k => outWindowWord k s

end Sys2Proof.Machine
end

