-- ==== Sys2Proof/Machine/Bus.lean ====
section
/-! DEFINITION. The host's reads and writes (20_memory R70 to R73, R82) and the clock cycle: reset, or the sample beat, then a completion, then the host access (20_memory R83, 70 R260). -/

namespace Sys2Proof.Machine

/-- A threshold write, locked outside IDLE (10_state R32, R33): `t` is the state with the threshold written. -/
def thresholdWrite (t s : State) : State :=
  match s.dstate with
  | .idle => t
  | .run | .drain => raiseIrq irqDrop s

/-- A host write to a register (10_state R22 to R50, 20_memory R73): a write to a read-only register is ignored. -/
def writeReg (r : Reg) (data : Word) (s : State) : Host.Outcome State Fault Refusal :=
  match r with
  | .cmd => issue data s
  | .ctrl => .next { s with alignEn := data.getLsbD 0 }
  | .irqStatus => .next (acknowledge data s)
  | .irqEnable => .next { s with irqEnable := data.setWidth 5 }
  | .edgeThr => .next (thresholdWrite { s with edgeThr := data } s)
  | .gapThr => .next (thresholdWrite { s with gapThr := data } s)
  | .src => .next { s with src := data }
  | .len => .next { s with len := data }
  | .dst => .next { s with dst := data }
  | .opa => .next { s with opa := data }
  | .opb => .next { s with opb := data }
  | .opc => .next { s with opc := data }
  | .id | .version | .params | .status | .err | .tcnt | .gapcnt | .lastpol | .bitcnt | .bitlen | .sidx | .frameOffset
  | .outlen | .result | .alignState | .aidx => .next s

/-- `MemWrite(addr, 4, v)` at an offset (00_scope R13): writes to reserved offsets and to the windows are ignored
(20_memory R73). -/
def writeWord (offset : BitVec 16) (data : Word) (s : State) : Host.Outcome State Fault Refusal :=
  match placeOf offset with
  | .register r => writeReg r data s
  | .reserved | .bitWindow _ | .outWindow _ => .next s

/-- A read hands the word to the host; four draws have gone by (log entry 5). -/
def hostRead (offset : BitVec 16) (w : Word) (s : State) : State :=
  { s with reads := (offset, w) :: s.reads, draws := s.draws + 4 }

/-- The host's access of this cycle, if there is one. -/
def hostAccess (op : Option HostOp) (s : State) : Host.Outcome State Fault Refusal :=
  match op with
  | none => .next s
  | some (.read offset) => .next (hostRead offset (readWord offset s) s)
  | some (.write offset data) => writeWord offset data s

/-- The reset of every architectural element (70 R260, 10_state R54). The build, the environment's queues and what it has seen
are not MDEC's and stay. -/
def resetRegisters (s : State) : State :=
  { State.reset with
    params := s.params, draws := s.draws, source := s.source, inputs := s.inputs,
    streamB := s.streamB, streamA := s.streamA, reads := s.reads }

/-- A cycle in which reset is asserted (70 R260): no beat is accepted, no completion happens, a host read returns any value, a
host write changes nothing. -/
def resetCycle (op : Option HostOp) (s : State) : State :=
  match op with
  | some (.read offset) => hostRead offset (drawnWord s) (resetRegisters s)
  | some (.write _ _) | none => resetRegisters s

/-- The cycle past the end of `inputs`: the source delivers, the engine completes, the host does nothing. It is what weak
fairness of the two asks for in the end (70 R270; log entry 2). -/
def fairCycle : Cycle := { rst := false, sValid := true, complete := true, host := none }

/-- What the environment does in the next clock cycle. -/
def nextCycle (s : State) : Cycle :=
  match s.inputs with
  | [] => fairCycle
  | c :: _ => c

/-- The start of a clock cycle: its input is taken, and no set event has happened in it yet. -/
def beginCycle (s : State) : State := { s with inputs := s.inputs.tail, irqSetNow := 0 }

/-- The events of one clock cycle without reset, in the order of 20_memory R83. -/
def runCycle (c : Cycle) (s : State) : Host.Outcome State Fault Refusal :=
  andThen (if c.complete then completionEvent (if c.sValid then takeBeat s else s) else .next (if c.sValid then takeBeat s else s))
    (hostAccess c.host)

/-- One clock cycle. -/
def clockCycle (s : State) : Host.Outcome State Fault Refusal :=
  if (nextCycle s).rst then .next (resetCycle (nextCycle s).host (beginCycle s))
  else runCycle (nextCycle s) (beginCycle s)

/-- The cycle in which the host writes the command word `w` to `CMD` and nothing else happens. -/
def commandCycle (w : Word) : Cycle :=
  { rst := false, sValid := false, complete := false, host := some (.write (regOffset .cmd) w) }

/-- The cycle in which a completion falls and nothing else happens. -/
def completionCycle : Cycle := { rst := false, sValid := false, complete := true, host := none }

/-- The cycle in which the source offers a beat and nothing else happens. -/
def beatCycle : Cycle := { rst := false, sValid := true, complete := false, host := none }

/-- Place the command word `w` where the next step runs it: a single-cycle command, or a word that is no command, as the host's
write of this cycle; a multi-cycle command as issued, with its completion in this cycle (log entry 15). -/
def placeCommand (w : Word) (s : State) : State :=
  match decodeWord w with
  | .ok i =>
    if i.isMultiCycle then { s with busy := true, latch := loadLatch w s, inputs := completionCycle :: s.inputs }
    else { s with busy := false, inputs := commandCycle w :: s.inputs }
  | .error _ => { s with busy := false, inputs := commandCycle w :: s.inputs }

end Sys2Proof.Machine
end

