-- ==== Sys2Proof/Machine/Step.lean ====
section
/-! DEFINITION. The step of the machine: one clock cycle (Machine/Bus.lean), and where the next command is placed. -/

namespace Sys2Proof.Machine

/-- One step: the events of one clock cycle, at most one of each agent (00_scope R7, R11; log entry 1). -/
def step (s : State) : Host.Outcome State Fault Refusal := clockCycle s

/-- The state in which the next step runs the command whose bits are `w` (log entry 15). -/
def State.withFetchWord (s : State) (_nbits w : Nat) : State := placeCommand (BitVec.ofNat 32 w) s

end Sys2Proof.Machine
end

