-- ==== Sys2Proof/Machine/Assembly.lean ====
section
/-! DEFINITION. The host's side, for claims to use: the assembly spelling of 30_encoding R110, the straight-line pseudo-instructions of R111, the platform addresses of 20_memory R70, and the threshold formula of 42 R152. Loops and branches are the host's own control flow (40 R132) and are not here. -/

namespace Sys2Proof.Machine

/-- `WR <REG>, <value>` (30_encoding R110). -/
def asmWr (r : Reg) (v : Word) : HostOp := .write (regOffset r) v

/-- `RD <REG>` (30_encoding R110). -/
def asmRd (r : Reg) : HostOp := .read (regOffset r)

/-- `RDW BITBUF[k]` (30_encoding R110). -/
def asmRdwBit (k : Nat) : HostOp := .read (BitVec.ofNat 16 (0x4000 + 4 * k))

/-- `RDW OUTBUF[k]` (30_encoding R110). -/
def asmRdwOut (k : Nat) : HostOp := .read (BitVec.ofNat 16 (0x8000 + 4 * k))

/-- `CMD <mnemonic>` (30_encoding R110). -/
def asmCmd (i : Instr) : HostOp := asmWr .cmd (encode i)

/-- The `PAD` of HEXB and ADDR where `pad=` is absent (30_encoding R102, R110). -/
def asmDefaultPad : Nat := 2

/-- `SETTHR e, g` (30_encoding R111). -/
def asmSetThr (e g : Word) : List HostOp := [asmWr .edgeThr e, asmWr .gapThr g]

/-- `CLAMPD x` (30_encoding R111). -/
def asmClampD (x : Word) : List HostOp := [asmWr .opa x, asmWr .opb 0xFFFFFFFF, asmWr .opc 1, asmCmd .clamp]

/-- `FIELDAT k, n` (30_encoding R111) after the read of `FRAME_OFFSET` has given `f`, up to the wait. -/
def asmFieldAt (f : Word) (k n : Nat) : List HostOp :=
  [asmWr .src (f + BitVec.ofNat 32 (8 * k)), asmWr .len (BitVec.ofNat 32 (8 * n)), asmCmd (.addr true asmDefaultPad)]

/-- `FIELD n` (30_encoding R111) after the read of `FRAME_OFFSET` has given `f`, up to the wait. -/
def asmField (f : Word) (n : Nat) : List HostOp :=
  [asmWr .src f, asmWr .len (BitVec.ofNat 32 (8 * n)), asmCmd (.addr true asmDefaultPad)]

/-- The cycle in which the host does one access and nothing else happens. -/
def hostCycle (op : HostOp) : Cycle := { rst := false, sValid := false, complete := false, host := some op }

/-- `SEND <samples> last` (30_encoding R110): the listed voltage codes as consecutive beats, the final one flagged; the tags
are the sample source's. -/
def asmSend (tag : Nat → BitVec 64) (codes : List Word) : List Beat :=
  codes.zipIdx.map (fun c => { voltage := c.1, tag := tag c.2, last := c.2 + 1 == codes.length })

/-- The byte address of an offset on the platform's bus: `MDEC_BASE + offset` (20_memory R70, 30_encoding R110). -/
def platformAddress (offset : BitVec 16) : Nat := Config.mdecBase + offset.toNat

/-- The offset an address of the platform's bus reaches in MDEC, if it reaches MDEC (20_memory R70). -/
def offsetOfAddress (addr : Nat) : Option (BitVec 16) :=
  if Config.mdecBase ≤ addr ∧ addr < Config.mdecBase + 65536 then some (BitVec.ofNat 16 (addr - Config.mdecBase)) else none

/-- `EDGE_THR := ceil(0.7 * T / Ts)` for T / Ts = `num` / `den` (42 R152). -/
def edgeThrFor (num den : Nat) : Nat := (7 * num + (10 * den - 1)) / (10 * den)

/-- `GAP_THR := floor(1.5 * T / Ts)` for T / Ts = `num` / `den` (42 R152). -/
def gapThrFor (num den : Nat) : Nat := (15 * num) / (10 * den)

end Sys2Proof.Machine
end

