-- ==== Sys2Proof/Safety.lean ====
section
/-! DEFINITION. What claims speak of: the invariants of MDEC's states, the source's own decode and align (42 R150, 43 R180) as functions on lists, a capture as the sample source delivers it, and the clean waveform of 42 R169. -/

namespace Sys2Proof.Machine

/-- `TCNT` = `GAPCNT` (10_state R52). -/
def CountersAgree (s : State) : Prop := s.tcnt = s.gapcnt

/-- BITBUF and OUTBUF are in canonical form and within their depths (20_memory R76, R79). -/
def BuffersCanonical (s : State) : Prop :=
  bitCellsWf s.bitbuf = true ∧ (∀ c ∈ s.bitbuf, c.1 < s.params.bitbufDepth) ∧
  Memory.wf s.outbuf = true ∧ (∀ c ∈ s.outbuf, c.1 < s.params.outbufDepth)

/-- While `BUSY` = 1 the latch holds a multi-cycle command (20_memory R84, 60 R236). -/
def EngineHolds (s : State) : Prop :=
  s.busy = true → ∃ i, latchedInstr s.latch = some i ∧ i.isMultiCycle = true

/-- While `BUSY` = 1 the length latched at the issue is within the BitString, which has only grown since (44 R190, 20_memory R77,
60 R237). -/
def LatchedLength (s : State) : Prop := s.busy = true → s.latch.bitlen ≤ bitLen s

/-- What `DONE` and `TERM` say of the decoder's state (10_state R27, 42 R158, R163). -/
def CaptureFlags (s : State) : Prop :=
  (s.done = true → s.dstate = .idle) ∧ (s.dstate = .drain → s.term = true) ∧ (s.dstate = .run → s.term = false) ∧
  (s.term = true → Config.minBits ≤ s.bitcnt.toNat)

/-- Every bit of the BitString BITBUF[0 .. BITLEN) has been written by the decoder (20_memory R76). -/
def BitsStored (s : State) : Prop := ∀ i, i < bitLen s → cellsGet i s.bitbuf ≠ none

/-- `OVF` says that more bits were committed than BITBUF holds (42 R164). -/
def OverflowMeaning (s : State) : Prop := s.ovf = decide (s.params.bitbufDepth < s.bitcnt.toNat)

/-- `PATTERN` stands in BITBUF from bit index `k`: its 48 bits, the most significant of 0xAAAAAAAAAAAB first (00_scope R9, 44
R191). -/
def PatternStandsAt (s : State) (k : Nat) : Prop := ∀ j, j < 48 → bitRead s (k + j) = Config.pattern.getMsbD j

/-- The pattern's leftmost place in BITBUF[0 .. n) is bit index `k` (44 R190, R191). -/
def LeftmostMatch (s : State) (n k : Nat) : Prop :=
  k + 48 ≤ n ∧ PatternStandsAt s k ∧ ∀ j, j < k → ¬ PatternStandsAt s j

/-- What `FOUND` and `FRAME_OFFSET` say of BITBUF (10_state R40, 44 R192, R193): the BitString is at rest, and the offset is the
end of the leftmost match. -/
def Located (s : State) : Prop :=
  (s.found = false → s.frameOffset = Config.noIndex) ∧
  (s.found = true → s.dstate ≠ .run ∧ ∃ k, LeftmostMatch s (bitLen s) k ∧ s.frameOffset.toNat = k + 48)

/-- What the alignment registers say of the decoder's (10_state R49, R50, 43 R181). -/
def AlignAgrees (s : State) : Prop :=
  (s.ahave = decide (0 < s.bitcnt.toNat)) ∧
  (s.ahave = false → s.aidx = Config.noIndex ∧ s.aval = false) ∧
  (s.ahave = true → s.bitcnt.toNat = min (s.aidx.toNat + 1) 0xFFFFFFFF) ∧
  (s.ahave = true → s.aidx.toNat < s.params.bitbufDepth → cellsGet s.aidx.toNat s.bitbuf = some s.aval) ∧
  (s.dstate = .run → s.asince.toNat = min 255 s.tcnt.toNat)

/-- `NOBIT` is no bit's index, on stream B and on stream A (43 R183, of the bits committed below saturation: log entry 10). -/
def IndicesAreReal (s : State) : Prop :=
  (∀ x ∈ s.streamB, x.index ≠ Config.noIndex) ∧ ∀ x ∈ s.streamA, x.present = true → x.bitIndex ≠ Config.noIndex

/-- An absent bit on stream A has the index `NOBIT` and the value 0 (43 R183). -/
def AbsentIsMarked (s : State) : Prop :=
  ∀ x ∈ s.streamA, x.present = false → x.bitIndex = Config.noIndex ∧ x.bitValue = false

/-- The decoder reads the low `VW` bits of a beat's voltage as a two's complement number, and its polarity is that number's sign
(20_memory R74, 30_encoding R107, 41 R140). -/
def ReadsTheVoltage (p : Params) (b : Beat) : Prop :=
  (beatPolarity p b = .neg ↔ b.voltage.getLsbD (p.vw - 1) = true) ∧
  (beatPolarity p b = .zero ↔ b.voltage.toNat % 2 ^ p.vw = 0) ∧
  (beatPolarity p b = .pos ↔ b.voltage.getLsbD (p.vw - 1) = false ∧ b.voltage.toNat % 2 ^ p.vw ≠ 0)

/-- Streams B and A carry the low `TAGW` bits of a beat's tag and the low `VW` bits of its voltage unchanged (20_memory R74, R75),
with 0 above them (log entry 4). -/
def CopiesTheLanes (p : Params) (b : Beat) : Prop :=
  (wiredTag p b).toNat = b.tag.toNat % 2 ^ p.tagw ∧ (wiredVoltage p b).toNat = b.voltage.toNat % 2 ^ p.vw

/-- How many samples in RUN lie behind `SIDX` since the last commit, or since DECODE before the first one: `TCNT`, while it is
not saturated (42 R151, R166). -/
def SampleDistance (s : State) : Prop :=
  s.dstate = .run → s.tcnt ≠ 0xFFFFFFFF →
    (s.bitcnt = 0 → s.sidx = s.tcnt) ∧
    (s.bitcnt ≠ 0 → ∃ x rest, s.streamB = x :: rest ∧ s.sidx = x.sidx + 1 + s.tcnt)

/-- The state DECODE leaves (42 R153), as far as the capture reads it. -/
def FreshRun (s : State) : Prop :=
  s.dstate = .run ∧ s.tcnt = 0 ∧ s.gapcnt = 0 ∧ s.lastpol = .neg ∧ s.bitcnt = 0 ∧ s.sidx = 0 ∧ s.done = false ∧
  s.term = false ∧ s.ovf = false ∧ s.ahave = false ∧ s.aval = false ∧ s.asince = 0 ∧ s.aidx = Config.noIndex

/-- A capture: the last beat is flagged, no earlier one is (70 R267 (c)). -/
def IsCapture (bs : List Beat) : Prop :=
  ∃ front z, bs = front ++ [z] ∧ (∀ b ∈ front, b.last = false) ∧ z.last = true

/-- The source holds these beats first, and the coming cycles offer one beat each and hold nothing else. -/
def Delivers (bs : List Beat) (s : State) : Prop :=
  (∃ rest, s.source = bs ++ rest) ∧ (∃ more, s.inputs = List.replicate bs.length beatCycle ++ more)

/-- The polarities of beats as the decoder of this build sees them. -/
def polarities (p : Params) (bs : List Beat) : List Polarity := bs.map (beatPolarity p)

/-- The source's `decode` (42 R150, steps 2 to 7) with both times counted in samples without bound (R151): `t` and `frameGap`
before the next sample, `n` bits committed, the last polarity, the index of the next sample. The committed bits come out as
(value, sample index), in order. -/
def sourceDecodeFrom (edgeThr gapThr : Nat) (t frameGap n : Nat) (last : Polarity) (i : Nat) (ps : List Polarity) :
    List (Bool × Nat) :=
  match ps with
  | [] => []
  | p :: rest =>
    if gapThr < frameGap + 1 ∧ Config.minBits ≤ n then []
    else if edgeThr ≤ t + 1 ∧ last ≠ p then
      (bitOf p, i) :: sourceDecodeFrom edgeThr gapThr 0 0 (n + 1) p (i + 1) rest
    else sourceDecodeFrom edgeThr gapThr (t + 1) (frameGap + 1) n p (i + 1) rest

/-- The source's `decode` from its step 1: both times 0, the negative sentinel, no bits (42 R150). -/
def sourceDecode (edgeThr gapThr : Nat) (ps : List Polarity) : List (Bool × Nat) :=
  sourceDecodeFrom edgeThr gapThr 0 0 0 .neg 0 ps

/-- The source's `align` at sample `i` (43 R180, R182): the ordinal and the value of the most recent bit committed at or before
the sample, if it lies at most `ALIGN_WIN` samples back. -/
def sourceAlign (commits : List (Bool × Nat)) (i : Nat) : Option (Nat × Bool) :=
  match (commits.zipIdx.filter (fun c => decide (c.1.2 ≤ i))).getLast? with
  | some c => if i - c.1.2 ≤ Config.alignWin then some (c.2, c.1.1) else none
  | none => none

/-- The stream-B beats of a capture whose committed bits are `commits` (42 R165). -/
def expectedB (p : Params) (bs : List Beat) (commits : List (Bool × Nat)) : List BBeat :=
  commits.zipIdx.map (fun c =>
    { value := c.1.1, index := BitVec.ofNat 32 c.2, sidx := BitVec.ofNat 32 c.1.2,
      tag := ((bs[c.1.2]?).map (wiredTag p)).getD 0 })

/-- The stream-A beats of a capture whose committed bits are `commits` (43 R180, R183, R185). -/
def expectedA (p : Params) (bs : List Beat) (commits : List (Bool × Nat)) : List ABeat :=
  bs.zipIdx.map (fun b =>
    { sidx := BitVec.ofNat 32 b.2, tag := wiredTag p b.1, voltage := wiredVoltage p b.1,
      present := (sourceAlign commits b.2).isSome,
      bitIndex := ((sourceAlign commits b.2).map (fun a => BitVec.ofNat 32 a.1)).getD Config.noIndex,
      bitValue := ((sourceAlign commits b.2).map (fun a => a.2)).getD false })

/-- The polarity of a line level. -/
def level (b : Bool) : Polarity := if b then .pos else .neg

/-- The clean waveform of a bit string with period `n` samples in which the second half-period carries the bit's value
(42 R169; 95, notation `IEEE(bits, N)`). -/
def cleanWave (bits : List Bool) (n : Nat) : List Polarity :=
  bits.flatMap (fun b => List.replicate (n / 2) (level (!b)) ++ List.replicate (n / 2) (level b))

/-- The latch after the issue of the word `w` (10_state R51, 44 R190): the word's fields, the operand registers, and `BITLEN`. -/
def latchOf (w : Word) (s : State) : Latch :=
  { op := BitVec.ofNat 8 (w.toNat % 256), r := w.getLsbD 8, pad := BitVec.ofNat 3 (w.toNat / 512 % 8),
    src := s.src, len := s.len, dst := s.dst, opa := s.opa, opb := s.opb, opc := s.opc,
    bitlen := bitLen s }

/-- How a command is issued (30_encoding R100, R103, R104, 60 R236, R237). Every word with opcode `op`, written to `CMD`: while
`BUSY` = 1 it is dropped; with a reserved bit set it completes with BADCMD; else it is the command `i` of the word, executed on
the loaded latch in the same event if the command is single-cycle, and latched with `BUSY` = 1 if it is multi-cycle. -/
def IssuedAs (op : Nat) (multi : Bool) (i : Word → Instr) : Prop :=
  ∀ (w : Word) (s : State), w.toNat % 256 = op →
    (s.busy = true → writeWord 0x014 w s = .next
      { s with irqStatus := s.irqStatus ||| 0b10000#5, irqSetNow := s.irqSetNow ||| 0b10000#5 }) ∧
    (s.busy = false → 4096 ≤ w.toNat → writeWord 0x014 w s = .next
      { s with
        latch := latchOf w s, err := .badCmd,
        irqStatus := s.irqStatus ||| 0b01100#5, irqSetNow := s.irqSetNow ||| 0b01100#5 }) ∧
    (s.busy = false → w.toNat < 4096 → multi = false →
      writeWord 0x014 w s = exec (i w) { s with latch := latchOf w s }) ∧
    (s.busy = false → w.toNat < 4096 → multi = true →
      writeWord 0x014 w s = .next { s with latch := latchOf w s, busy := true } ∧
      latchedInstr (latchOf w s) = some (i w))

/-- The width of an octet in hexadecimal at least `pad` digits wide: `w(o, pad)` (45 R203). -/
def hexWidth (o pad : Nat) : Nat := max pad (if o < 16 then 1 else 2)

/-- The text of an octet in hexadecimal (45 R203, 20_memory R81): `hexWidth` digits, the most significant first, each as its
lowercase ASCII byte. -/
def hexText (o pad : Nat) : List Byte :=
  (List.range (hexWidth o pad)).map (fun j =>
    BitVec.ofNat 8
      (if o / 16 ^ (hexWidth o pad - 1 - j) % 16 ≤ 9 then 0x30 + o / 16 ^ (hexWidth o pad - 1 - j) % 16
       else 0x61 + (o / 16 ^ (hexWidth o pad - 1 - j) % 16 - 10)))

/-- The octets of the BitString range of `n` octets from bit index `src`, each with its first bit the most significant, or the
least significant when `r` (20_memory R78, 30_encoding R101). -/
def OctetsOf (s : State) (src n : Nat) (r : Bool) (os : List Byte) : Prop :=
  os.length = n ∧
  ∀ i k, i < n → k < 8 → (os.getD i 0).getLsbD (if r then k else 7 - k) = bitRead s (src + 8 * i + k)

/-- The code of CHUNK or ADDR whose output is `m` bytes long (60 R231, R232): CONFLICT in RUN, then MALFORMED for the length, then
RANGE where the source range passes `BITLEN` or the destination range passes `OUTBUF_DEPTH`, else OK. -/
def ReportsRange (s t : State) (m : Nat) : Prop :=
  (t.err = .conflict ↔ s.dstate = .run) ∧
  (t.err = .malformed ↔ s.dstate ≠ .run ∧ s.latch.len.toNat % 8 ≠ 0) ∧
  (t.err = .range ↔ s.dstate ≠ .run ∧ s.latch.len.toNat % 8 = 0 ∧
    (bitLen s < s.latch.src.toNat + s.latch.len.toNat ∨ s.params.outbufDepth < s.latch.dst.toNat + m)) ∧
  (t.err = .ok ↔ s.dstate ≠ .run ∧ s.latch.len.toNat % 8 = 0 ∧
    s.latch.src.toNat + s.latch.len.toNat ≤ bitLen s ∧ s.latch.dst.toNat + m ≤ s.params.outbufDepth)

/-- OUTBUF after `bytes` have been stored from byte index `dst`: those bytes there, every other byte as before. -/
def StoredAt (dst : Nat) (bytes : List Byte) (s t : State) : Prop :=
  (∀ j, j < bytes.length → outRead t (dst + j) = bytes[j]?) ∧
  ∀ a, a < dst ∨ dst + bytes.length ≤ a → outRead t a = outRead s a

/-- Two states that differ at most in BITBUF bits at or above `BITLEN` (20_memory R77, 93 I6). -/
def SameButStale (s t : State) : Prop :=
  t = { s with bitbuf := t.bitbuf } ∧ ∀ i, i < bitLen s → bitRead s i = bitRead t i

/-- The state with other values in the six operand registers (70 R266). -/
def withOperands (src len dst opa opb opc : Word) (s : State) : State :=
  { s with src := src, len := len, dst := dst, opa := opa, opb := opb, opc := opc }

end Sys2Proof.Machine
end

