-- ==== Sys2Proof/Certificates/Slice0/Obligations.lean ====
section
/-! DEFINITION. The statements for the provers. Each docstring names the rules of spec/ it formalises. Where a statement gives a next state as `{ s with … }`, every field not listed, the rest of the registers, the buffers and the streams among them, is unchanged: that is its frame. -/

open Sys2Proof Sys2Proof.Machine

/-- The command words of the table in 30_encoding R110, read bit by bit. -/
def Obligations.SampleCommandWordsDecode : Prop :=
  decodeWord 0x00000000 = .ok .nop ∧ decodeWord 0x00000001 = .ok .clear ∧ decodeWord 0x00000002 = .ok .decode ∧
  decodeWord 0x00000010 = .ok .sign ∧ decodeWord 0x00000011 = .ok .clamp ∧ decodeWord 0x00000012 = .ok .edge ∧
  decodeWord 0x00000020 = .ok .locate ∧ decodeWord 0x00000030 = .ok (.chunk false) ∧
  decodeWord 0x00000130 = .ok (.chunk true) ∧ decodeWord 0x00000031 = .ok .revb ∧
  decodeWord 0x00000432 = .ok (.hexb 2) ∧ decodeWord 0x00000032 = .ok (.hexb 0) ∧
  decodeWord 0x00000433 = .ok (.addr false 2) ∧ decodeWord 0x00000533 = .ok (.addr true 2)

/-- Decoding an encoded well-formed command gives it back, through the table's numbering too (30_encoding R100, R103; log entry
21). -/
def Obligations.DecodeOfEncodeIsTheCommand : Prop :=
  ∀ i : Instr, i.wellFormed = true →
    decodeWord (encode i) = .ok i ∧ decodeTableWord 32 (encode i).toNat = some i

/-- A decoded command is well-formed, its own word is the word it was read from on the bits it uses, and a word that differs
only in bits the command ignores is the same command (30_encoding R105, with its two examples). -/
def Obligations.IgnoredBitsDoNotMatter : Prop :=
  (∀ w i, decodeWord w = .ok i →
    i.wellFormed = true ∧ encode i = w &&& usedBits i ∧ ∀ v, v &&& usedBits i = w &&& usedBits i → decodeWord v = .ok i) ∧
  decodeWord 0x00000100 = .ok .nop ∧ decodeWord 0x00000E20 = .ok .locate

/-- `decode(w)` as 30_encoding R109 writes it, over the fields as numbers: total over all words. -/
def Obligations.DecodeIsTheOpcodeMap : Prop :=
  ∀ w : Word, decodeWord w =
    if w.toNat / 4096 ≠ 0 then .error .reservedBits
    else if w.toNat % 256 = 0x00 then .ok .nop
    else if w.toNat % 256 = 0x01 then .ok .clear
    else if w.toNat % 256 = 0x02 then .ok .decode
    else if w.toNat % 256 = 0x10 then .ok .sign
    else if w.toNat % 256 = 0x11 then .ok .clamp
    else if w.toNat % 256 = 0x12 then .ok .edge
    else if w.toNat % 256 = 0x20 then .ok .locate
    else if w.toNat % 256 = 0x30 then .ok (.chunk (w.toNat / 256 % 2 == 1))
    else if w.toNat % 256 = 0x31 then .ok .revb
    else if w.toNat % 256 = 0x32 then .ok (.hexb (w.toNat / 512 % 8))
    else if w.toNat % 256 = 0x33 then .ok (.addr (w.toNat / 256 % 2 == 1) (w.toNat / 512 % 8))
    else .error .reservedOpcode

/-- Reserved and illegal words (30_encoding R104): a word with a reserved bit set or with an opcode outside the table completes
in the event of its write with `BADCMD` (code 4), and changes nothing but `ERR`, `IRQ_STATUS` and the hidden latch. -/
def Obligations.ReservedWordCompletesWithBadCmd : Prop :=
  errCode .badCmd = 4 ∧
  ∀ (w : Word) (s : State), s.busy = false →
    (4096 ≤ w.toNat ∨ w.toNat % 256 ∉ [0x00, 0x01, 0x02, 0x10, 0x11, 0x12, 0x20, 0x30, 0x31, 0x32, 0x33]) →
    writeWord 0x014 w s = .next
      { s with
        latch := latchOf w s, err := .badCmd,
        irqStatus := s.irqStatus ||| 0b01100#5, irqSetNow := s.irqSetNow ||| 0b01100#5 }

/-- A step runs the decoded command (60 R236, 20_memory R84). In a cycle in which the host writes `w` to `CMD` and nothing else
happens, with `BUSY` = 0: a single-cycle command is executed on the latch loaded from `w`; a multi-cycle command is latched and
`BUSY` becomes 1. In a cycle in which a completion falls, with `BUSY` = 1: the latched command is executed and `BUSY` becomes 0.
The latch loaded from `w` holds the command of `w`. In every cycle without reset the beat comes first, then the completion, then
the host access, each if it falls in the cycle (20_memory R83). The cycle is the model's step (log entries 1 and 15). -/
def Obligations.StepRunsTheDecodedCommand : Prop :=
  ∀ (s : State) (rest : List Cycle),
    (∀ w i, s.inputs = commandCycle w :: rest → s.busy = false → decodeWord w = .ok i →
      latchedInstr (loadLatch w s) = some i ∧
      (i.isMultiCycle = false →
        step s = exec i { s with inputs := rest, irqSetNow := 0, latch := loadLatch w s }) ∧
      (i.isMultiCycle = true →
        step s = .next { s with inputs := rest, irqSetNow := 0, latch := loadLatch w s, busy := true })) ∧
    (∀ i, s.inputs = completionCycle :: rest → s.busy = true → latchedInstr s.latch = some i →
      ∃ t, exec i { s with inputs := rest, irqSetNow := 0 } = .next t ∧ step s = .next { t with busy := false }) ∧
    ∀ (c : Cycle) (u : State), s.inputs = c :: rest → c.rst = false →
      u = (if c.sValid = true then takeBeat { s with inputs := rest, irqSetNow := 0 }
        else { s with inputs := rest, irqSetNow := 0 }) →
      (c.complete = false ∨ u.busy = false → step s = hostAccess c.host u) ∧
      ∀ i, c.complete = true → u.busy = true → latchedInstr u.latch = some i →
        ∃ v, exec i u = .next v ∧ step s = hostAccess c.host { v with busy := false }

/-- MDEC never traps (60 R230): from every state in which a busy engine holds a command, a step answers a next state (the
model's one fault is for the other states, log entry 13). -/
def Obligations.EveryStepAnswers : Prop := ∀ s : State, EngineHolds s → ∃ t, step s = .next t

/-- Every command completes, with one code, and reports it (60 R230, R236, 10_state R29): `CMD_DONE` is set, `CMD_ERR` exactly
when the code is not OK, and no other interrupt bit changes. -/
def Obligations.EveryCommandCompletesAndReports : Prop :=
  ∀ (i : Instr) (s : State), ∃ t, exec i s = .next t ∧
    t.irqStatus = s.irqStatus ||| (if t.err = .ok then 0b00100#5 else 0b01100#5)

/-- NOP (40 R130). -/
def Obligations.NopOnlyReports : Prop :=
  IssuedAs 0x00 false (fun _ => .nop) ∧
  ∀ s : State, exec .nop s = .next
    { s with
      err := .ok, irqStatus := s.irqStatus ||| 0b00100#5, irqSetNow := s.irqSetNow ||| 0b00100#5 }

/-- CLEAR (40 R131), in every decoder state: the initial state, and nothing of the source or the buffers. A beat accepted in the
cycle of the write is processed first. -/
def Obligations.ClearRestoresInitialState : Prop :=
  IssuedAs 0x01 false (fun _ => .clear) ∧
  (∀ (s : State) (w : Word) (rest : List Cycle),
    s.inputs = { rst := false, sValid := true, complete := false, host := some (.write 0x014 w) } :: rest →
    step s = writeWord 0x014 w (takeBeat { s with inputs := rest, irqSetNow := 0 })) ∧
  ∀ s : State, exec .clear s = .next
    { s with
      dstate := .idle, tcnt := 0, gapcnt := 0, lastpol := .neg, bitcnt := 0, sidx := 0,
      done := false, term := false, ovf := false, found := false, frameOffset := 0xFFFFFFFF,
      outlen := 0, result := 0, ahave := false, aval := false, asince := 0, aidx := 0xFFFFFFFF,
      err := .ok, irqStatus := s.irqStatus ||| 0b00100#5, irqSetNow := s.irqSetNow ||| 0b00100#5 }

/-- DECODE (42 R153): in IDLE it starts a capture; in RUN and DRAIN it gives CONFLICT (code 5) and nothing else changes. While a
capture goes on, the thresholds are those in force at DECODE: no step that ends outside IDLE changes one. -/
def Obligations.DecodeStartsACapture : Prop :=
  IssuedAs 0x02 false (fun _ => .decode) ∧ errCode .conflict = 5 ∧
  (∀ s : State, s.dstate = .idle → exec .decode s = .next
    { s with
      dstate := .run, tcnt := 0, gapcnt := 0, lastpol := .neg, bitcnt := 0, sidx := 0,
      done := false, term := false, ovf := false, found := false, frameOffset := 0xFFFFFFFF,
      ahave := false, aval := false, asince := 0, aidx := 0xFFFFFFFF,
      err := .ok, irqStatus := s.irqStatus ||| 0b00100#5, irqSetNow := s.irqSetNow ||| 0b00100#5 }) ∧
  (∀ s : State, s.dstate ≠ .idle → exec .decode s = .next
    { s with
      err := .conflict, irqStatus := s.irqStatus ||| 0b01100#5, irqSetNow := s.irqSetNow ||| 0b01100#5 }) ∧
  ∀ s t : State, step s = .next t → t.dstate ≠ .idle → t.edgeThr = s.edgeThr ∧ t.gapThr = s.gapThr

/-- SIGN (41 R143): the result read as a signed number is the sign of OPA read as a signed number. -/
def Obligations.SignGivesThePolarity : Prop :=
  IssuedAs 0x10 false (fun _ => .sign) ∧
  ∀ s : State, ∃ v : Word, v.toInt = s.latch.opa.toInt.sign ∧ exec .sign s = .next
    { s with
      result := v, err := .ok, irqStatus := s.irqStatus ||| 0b00100#5, irqSetNow := s.irqSetNow ||| 0b00100#5 }

/-- CLAMP (41 R144): the signed bound of OPA by OPB and OPC, or BADARG (code 6) with `RESULT` unchanged when OPB > OPC. -/
def Obligations.ClampBoundsTheOperand : Prop :=
  IssuedAs 0x11 false (fun _ => .clamp) ∧ errCode .badArg = 6 ∧
  (∀ s : State, s.latch.opb.toInt ≤ s.latch.opc.toInt →
    ∃ v : Word, v.toInt = max s.latch.opb.toInt (min s.latch.opa.toInt s.latch.opc.toInt) ∧ exec .clamp s = .next
      { s with
        result := v, err := .ok, irqStatus := s.irqStatus ||| 0b00100#5, irqSetNow := s.irqSetNow ||| 0b00100#5 }) ∧
  ∀ s : State, s.latch.opc.toInt < s.latch.opb.toInt → exec .clamp s = .next
    { s with
      err := .badArg, irqStatus := s.irqStatus ||| 0b01100#5, irqSetNow := s.irqSetNow ||| 0b01100#5 }

/-- EDGE (41 R145): 1 when the signs of OPA and OPB differ, else 0; three signs (R142). -/
def Obligations.EdgeComparesPolarities : Prop :=
  IssuedAs 0x12 false (fun _ => .edge) ∧
  ∀ s : State, exec .edge s = .next
    { s with
      result := if s.latch.opa.toInt.sign ≠ s.latch.opb.toInt.sign then 0x00000001 else 0x00000000,
      err := .ok, irqStatus := s.irqStatus ||| 0b00100#5, irqSetNow := s.irqSetNow ||| 0b00100#5 }

/-- The default clamp before `sign` changes nothing (41 R146): CLAMP with OPB = -1 and OPC = +1, then SIGN of its result, gives
the `RESULT` of SIGN alone. -/
def Obligations.SignOfDefaultClampIsSign : Prop :=
  (∀ x : Int, sign (clamp x (-1) 1) = sign x) ∧
  ∀ s t u v : State, s.latch.opb = 0xFFFFFFFF → s.latch.opc = 0x00000001 →
    exec .clamp s = .next t → exec .sign { t with latch := { t.latch with opa := t.result } } = .next u →
    exec .sign s = .next v → u.result = v.result

/-- LOCATE (44 R190, R191, R192): outside RUN it gives the end of the leftmost match in BITBUF[0 .. n), or NOTFOUND (code 2) where
there is none, with `n` the `BITLEN` latched at the issue (`IssuedAs`, `latchOf`; log entry 9); in RUN it gives CONFLICT (code 5)
and `FOUND` and `FRAME_OFFSET` stay. `exec` runs at the completion, so `DSTATE` is read there (60 R236). -/
def Obligations.LocateFindsTheLeftmostMatch : Prop :=
  IssuedAs 0x20 true (fun _ => .locate) ∧ errCode .notFound = 2 ∧ errCode .conflict = 5 ∧
  (∀ (s : State) (k : Nat), s.dstate ≠ .run → LeftmostMatch s s.latch.bitlen k → exec .locate s = .next
    { s with
      found := true, frameOffset := BitVec.ofNat 32 (k + 48),
      err := .ok, irqStatus := s.irqStatus ||| 0b00100#5, irqSetNow := s.irqSetNow ||| 0b00100#5 }) ∧
  (∀ s : State, s.dstate ≠ .run → (∀ k, k + 48 ≤ s.latch.bitlen → ¬ PatternStandsAt s k) → exec .locate s = .next
    { s with
      found := false, frameOffset := 0xFFFFFFFF,
      err := .notFound, irqStatus := s.irqStatus ||| 0b01100#5, irqSetNow := s.irqSetNow ||| 0b01100#5 }) ∧
  ∀ s : State, s.dstate = .run → exec .locate s = .next
    { s with
      err := .conflict, irqStatus := s.irqStatus ||| 0b01100#5, irqSetNow := s.irqSetNow ||| 0b01100#5 }

/-- CHUNK and CHUNK.R (45 R200, R201): outside RUN, with `len` a multiple of 8, the source range within the BitString and the
destination range within OUTBUF, the octets are stored from byte index `dst`, `OUTLEN` is their number, and nothing else
changes. In RUN CONFLICT (code 5), then for another length MALFORMED (code 1), then for a range past its end RANGE (code 3), and
only the report is written. -/
def Obligations.ChunkStoresTheOctets : Prop :=
  IssuedAs 0x30 true (fun w => .chunk (w.getLsbD 8)) ∧
  errCode .malformed = 1 ∧ errCode .range = 3 ∧ errCode .conflict = 5 ∧
  (∀ (s : State) (r : Bool), s.dstate = .run → exec (.chunk r) s = .next
    { s with
      err := .conflict, irqStatus := s.irqStatus ||| 0b01100#5, irqSetNow := s.irqSetNow ||| 0b01100#5 }) ∧
  (∀ (s : State) (r : Bool), s.dstate ≠ .run → s.latch.len.toNat % 8 ≠ 0 → exec (.chunk r) s = .next
    { s with
      err := .malformed, irqStatus := s.irqStatus ||| 0b01100#5, irqSetNow := s.irqSetNow ||| 0b01100#5 }) ∧
  (∀ (s : State) (r : Bool), s.dstate ≠ .run → s.latch.len.toNat % 8 = 0 →
    bitLen s < s.latch.src.toNat + s.latch.len.toNat → exec (.chunk r) s = .next
    { s with
      err := .range, irqStatus := s.irqStatus ||| 0b01100#5, irqSetNow := s.irqSetNow ||| 0b01100#5 }) ∧
  (∀ (s : State) (r : Bool), s.dstate ≠ .run → s.latch.len.toNat % 8 = 0 →
    s.latch.src.toNat + s.latch.len.toNat ≤ bitLen s →
    s.params.outbufDepth < s.latch.dst.toNat + s.latch.len.toNat / 8 → exec (.chunk r) s = .next
    { s with
      err := .range, irqStatus := s.irqStatus ||| 0b01100#5, irqSetNow := s.irqSetNow ||| 0b01100#5 }) ∧
  ∀ (s : State) (r : Bool), s.dstate ≠ .run → s.latch.len.toNat % 8 = 0 →
    s.latch.src.toNat + s.latch.len.toNat ≤ bitLen s →
    s.latch.dst.toNat + s.latch.len.toNat / 8 ≤ s.params.outbufDepth →
    ∃ (t : State) (os : List Byte), exec (.chunk r) s = .next t ∧
      OctetsOf s s.latch.src.toNat (s.latch.len.toNat / 8) r os ∧ StoredAt s.latch.dst.toNat os s t ∧
      t = { s with
            outbuf := t.outbuf, outlen := BitVec.ofNat 32 (s.latch.len.toNat / 8),
            err := .ok, irqStatus := s.irqStatus ||| 0b00100#5, irqSetNow := s.irqSetNow ||| 0b00100#5 }

/-- REVB (45 R202): bit `k` of the result is bit `7 - k` of OPA, the bits above the octet are 0, and reversing twice gives the
octet back. -/
def Obligations.RevbReversesTheOctet : Prop :=
  IssuedAs 0x31 false (fun _ => .revb) ∧
  (∀ s : State, ∃ v : Word,
    (∀ k, k < 8 → v.getLsbD k = s.latch.opa.getLsbD (7 - k)) ∧ v.toNat < 256 ∧ exec .revb s = .next
      { s with
        result := v, err := .ok, irqStatus := s.irqStatus ||| 0b00100#5, irqSetNow := s.irqSetNow ||| 0b00100#5 }) ∧
  ∀ o : Byte, bitrev8 (bitrev8 o) = o

/-- HEXB (45 R203, R204), in every decoder state: the hexadecimal text of OPA[7:0], at least `pad` digits wide, is stored from
byte index `dst` where it fits, with its width in `OUTLEN`; where it does not fit, RANGE (code 3) and nothing is written. -/
def Obligations.HexbStoresTheText : Prop :=
  IssuedAs 0x32 true (fun w => .hexb (w.toNat / 512 % 8)) ∧ errCode .range = 3 ∧
  (∀ (s : State) (pad : Nat),
    s.latch.dst.toNat + hexWidth (s.latch.opa.toNat % 256) pad ≤ s.params.outbufDepth →
    ∃ t : State, exec (.hexb pad) s = .next t ∧
      StoredAt s.latch.dst.toNat (hexText (s.latch.opa.toNat % 256) pad) s t ∧
      t = { s with
            outbuf := t.outbuf, outlen := BitVec.ofNat 32 (hexWidth (s.latch.opa.toNat % 256) pad),
            err := .ok, irqStatus := s.irqStatus ||| 0b00100#5, irqSetNow := s.irqSetNow ||| 0b00100#5 }) ∧
  ∀ (s : State) (pad : Nat),
    s.params.outbufDepth < s.latch.dst.toNat + hexWidth (s.latch.opa.toNat % 256) pad →
    exec (.hexb pad) s = .next
      { s with
        err := .range, irqStatus := s.irqStatus ||| 0b01100#5, irqSetNow := s.irqSetNow ||| 0b01100#5 }

/-- ADDR and ADDR.R (45 R205): outside RUN, with `len` a multiple of 8 and the source range within the BitString, the hex texts
of the octets joined by colons are stored from byte index `dst` where they fit, with their length in `OUTLEN`; where they do
not fit, RANGE and nothing is written. In RUN CONFLICT, then for another length MALFORMED, then for a source range past the
BitString RANGE, and only the report is written. -/
def Obligations.AddrStoresTheJoinedText : Prop :=
  IssuedAs 0x33 true (fun w => .addr (w.getLsbD 8) (w.toNat / 512 % 8)) ∧
  (∀ (s : State) (r : Bool) (pad : Nat), s.dstate = .run → exec (.addr r pad) s = .next
    { s with
      err := .conflict, irqStatus := s.irqStatus ||| 0b01100#5, irqSetNow := s.irqSetNow ||| 0b01100#5 }) ∧
  (∀ (s : State) (r : Bool) (pad : Nat), s.dstate ≠ .run → s.latch.len.toNat % 8 ≠ 0 → exec (.addr r pad) s = .next
    { s with
      err := .malformed, irqStatus := s.irqStatus ||| 0b01100#5, irqSetNow := s.irqSetNow ||| 0b01100#5 }) ∧
  (∀ (s : State) (r : Bool) (pad : Nat), s.dstate ≠ .run → s.latch.len.toNat % 8 = 0 →
    bitLen s < s.latch.src.toNat + s.latch.len.toNat → exec (.addr r pad) s = .next
    { s with
      err := .range, irqStatus := s.irqStatus ||| 0b01100#5, irqSetNow := s.irqSetNow ||| 0b01100#5 }) ∧
  ∀ (s : State) (r : Bool) (pad : Nat), s.dstate ≠ .run → s.latch.len.toNat % 8 = 0 →
    s.latch.src.toNat + s.latch.len.toNat ≤ bitLen s →
    ∃ (os text : List Byte), OctetsOf s s.latch.src.toNat (s.latch.len.toNat / 8) r os ∧
      text = List.intercalate [0x3A] (os.map (fun o => hexText o.toNat pad)) ∧
      (s.latch.dst.toNat + text.length ≤ s.params.outbufDepth →
        ∃ t : State, exec (.addr r pad) s = .next t ∧ StoredAt s.latch.dst.toNat text s t ∧
          t = { s with
                outbuf := t.outbuf, outlen := BitVec.ofNat 32 text.length,
                err := .ok, irqStatus := s.irqStatus ||| 0b00100#5, irqSetNow := s.irqSetNow ||| 0b00100#5 }) ∧
      (s.params.outbufDepth < s.latch.dst.toNat + text.length → exec (.addr r pad) s = .next
        { s with
          err := .range, irqStatus := s.irqStatus ||| 0b01100#5, irqSetNow := s.irqSetNow ||| 0b01100#5 })

/-- The length of an address at `pad` = 2 (45 R205, corner cases): 3N - 1 characters for N ≥ 1 octets, none for N = 0. -/
def Obligations.AddrLengthAtPadTwo : Prop :=
  ∀ (s t : State) (r : Bool), exec (.addr r 2) s = .next t → t.err = .ok →
    t.outlen = BitVec.ofNat 32 (3 * (s.latch.len.toNat / 8) - 1)

/-- The priority of the error codes (60 R231, R232): a command reports the first check that fails, in the order BADCMD (no command
is decoded), CONFLICT, BADARG, MALFORMED, RANGE of the source, RANGE of the destination, NOTFOUND, and OK when none fails. The
output of ADDR is as long as the hexadecimal texts of its octets and the colons between them (45 R205). LOCATE's length is the
latched one (log entry 9). -/
def Obligations.ErrorCodePriority : Prop :=
  (∀ (w : Word) (e : DecodeError) (s t : State), s.busy = false → decodeWord w = .error e →
    issue w s = .next t → t.err = .badCmd) ∧
  ∀ (i : Instr) (s t : State), exec i s = .next t →
    match i with
    | .nop | .clear | .sign | .edge | .revb => t.err = .ok
    | .decode => (t.err = .conflict ↔ s.dstate ≠ .idle) ∧ (t.err = .ok ↔ s.dstate = .idle)
    | .clamp =>
      (t.err = .badArg ↔ s.latch.opc.toInt < s.latch.opb.toInt) ∧
      (t.err = .ok ↔ s.latch.opb.toInt ≤ s.latch.opc.toInt)
    | .locate =>
      (t.err = .conflict ↔ s.dstate = .run) ∧
      (t.err = .notFound ↔ s.dstate ≠ .run ∧ ∀ k, k + 48 ≤ s.latch.bitlen → ¬ PatternStandsAt s k) ∧
      (t.err = .ok ↔ s.dstate ≠ .run ∧ ∃ k, k + 48 ≤ s.latch.bitlen ∧ PatternStandsAt s k)
    | .chunk _ => ReportsRange s t (s.latch.len.toNat / 8)
    | .hexb pad =>
      (t.err = .range ↔ s.params.outbufDepth < s.latch.dst.toNat + hexWidth (s.latch.opa.toNat % 256) pad) ∧
      (t.err = .ok ↔ s.latch.dst.toNat + hexWidth (s.latch.opa.toNat % 256) pad ≤ s.params.outbufDepth)
    | .addr r pad =>
      ∀ os : List Byte, OctetsOf s s.latch.src.toNat (s.latch.len.toNat / 8) r os →
        ReportsRange s t ((os.map (fun o => hexWidth o.toNat pad)).sum + (os.length - 1))

/-- Errors are precise (60 R233): a command that completes with an error writes only `ERR`, `CMD_DONE` and `CMD_ERR`; the one
exception is NOTFOUND, which LOCATE alone gives and which also writes `FOUND` and `FRAME_OFFSET`. A word that is no command writes
its report and the hidden latch. -/
def Obligations.FailedCommandWritesOnlyItsReport : Prop :=
  (∀ (i : Instr) (s t : State), exec i s = .next t → t.err ≠ .ok →
    (t.err = .notFound → i = .locate) ∧
    t = { s with
          err := t.err, irqStatus := s.irqStatus ||| 0b01100#5, irqSetNow := s.irqSetNow ||| 0b01100#5,
          found := if t.err = .notFound then false else s.found,
          frameOffset := if t.err = .notFound then 0xFFFFFFFF else s.frameOffset }) ∧
  ∀ (w : Word) (e : DecodeError) (s : State), s.busy = false → decodeWord w = .error e →
    issue w s = .next
      { s with
        latch := latchOf w s, err := .badCmd,
        irqStatus := s.irqStatus ||| 0b01100#5, irqSetNow := s.irqSetNow ||| 0b01100#5 }

/-- What no command changes, and what only some do (70 R269, R272, 20_memory R82): the thresholds, the controls, the operand
registers, the latch, BITBUF and the streams are changed by no command; the decoder and alignment state only by CLEAR and
DECODE; `RESULT` only by CLEAR, SIGN, CLAMP, EDGE and REVB; `FOUND` and `FRAME_OFFSET` only by CLEAR, DECODE and LOCATE;
`OUTLEN` only by CLEAR, CHUNK, HEXB and ADDR; OUTBUF only by CHUNK, HEXB and ADDR, and only in the `OUTLEN` bytes from the
latched destination. -/
def Obligations.CommandFrame : Prop :=
  ∀ (i : Instr) (s t : State), exec i s = .next t →
    (t.busy = s.busy ∧ t.irqEnable = s.irqEnable ∧ t.alignEn = s.alignEn ∧ t.edgeThr = s.edgeThr ∧ t.gapThr = s.gapThr ∧
      t.src = s.src ∧ t.len = s.len ∧ t.dst = s.dst ∧ t.opa = s.opa ∧ t.opb = s.opb ∧ t.opc = s.opc ∧
      t.latch = s.latch ∧ t.bitbuf = s.bitbuf ∧ t.params = s.params ∧ t.draws = s.draws ∧ t.source = s.source ∧
      t.inputs = s.inputs ∧ t.streamB = s.streamB ∧ t.streamA = s.streamA ∧ t.reads = s.reads) ∧
    (i ≠ .clear → i ≠ .decode →
      t.dstate = s.dstate ∧ t.done = s.done ∧ t.term = s.term ∧ t.ovf = s.ovf ∧ t.tcnt = s.tcnt ∧ t.gapcnt = s.gapcnt ∧
      t.lastpol = s.lastpol ∧ t.bitcnt = s.bitcnt ∧ t.sidx = s.sidx ∧ t.ahave = s.ahave ∧ t.aval = s.aval ∧
      t.asince = s.asince ∧ t.aidx = s.aidx) ∧
    (i ∉ [.clear, .sign, .clamp, .edge, .revb] → t.result = s.result) ∧
    (i ∉ [.clear, .decode, .locate] → t.found = s.found ∧ t.frameOffset = s.frameOffset) ∧
    (i ≠ .clear → i.isMultiCycle = false ∨ i = .locate → t.outlen = s.outlen) ∧
    (i.isMultiCycle = false ∨ i = .locate ∨ t.err ≠ .ok → t.outbuf = s.outbuf) ∧
    (∀ a, a < s.latch.dst.toNat ∨ s.latch.dst.toNat + t.outlen.toNat ≤ a →
      s.params.Legal → outRead t a = outRead s a)

/-- Operand latching (70 R266): a command reads its operands from the latch only, so other values in the operand registers
change nothing in what it does and stay as they are. -/
def Obligations.CommandsReadOnlyTheLatch : Prop :=
  ∀ (i : Instr) (s t : State) (src len dst opa opb opc : Word), exec i s = .next t →
    exec i (withOperands src len dst opa opb opc s) = .next (withOperands src len dst opa opb opc t)

/-- A beat is accepted exactly in RUN and DRAIN (42 R155, 20_memory R74, 70 R268): in IDLE the source keeps it and nothing
changes; otherwise it leaves the source and `SIDX` advances by 1, wrapping, whatever the sample is (10_state R21, R39). No beat
changes command-engine state (70 R269), the controls or the thresholds. -/
def Obligations.BeatsAreAcceptedOutsideIdle : Prop :=
  (∀ s : State, s.dstate = .idle → sReady s = false ∧ takeBeat s = s) ∧
  (∀ (s : State) (b : Beat) (rest : List Beat), s.dstate ≠ .idle → s.source = b :: rest →
    sReady s = true ∧ takeBeat s = acceptBeat b { s with source := rest } ∧ (takeBeat s).source = rest ∧
    (takeBeat s).sidx.toNat = (s.sidx.toNat + 1) % 2 ^ 32) ∧
  ∀ s : State,
    (takeBeat s).busy = s.busy ∧ (takeBeat s).err = s.err ∧ (takeBeat s).found = s.found ∧
    (takeBeat s).frameOffset = s.frameOffset ∧ (takeBeat s).outlen = s.outlen ∧ (takeBeat s).result = s.result ∧
    (takeBeat s).outbuf = s.outbuf ∧ (takeBeat s).latch = s.latch ∧ (takeBeat s).src = s.src ∧
    (takeBeat s).len = s.len ∧ (takeBeat s).dst = s.dst ∧ (takeBeat s).opa = s.opa ∧ (takeBeat s).opb = s.opb ∧
    (takeBeat s).opc = s.opc ∧ (takeBeat s).edgeThr = s.edgeThr ∧ (takeBeat s).gapThr = s.gapThr ∧
    (takeBeat s).alignEn = s.alignEn ∧ (takeBeat s).irqEnable = s.irqEnable ∧ (takeBeat s).params = s.params ∧
    (takeBeat s).draws = s.draws ∧ (takeBeat s).reads = s.reads

/-- Termination (42 R158, R157 (b), with R163 for a last beat): with more than `GAP_THR` samples since the last commit, this one
counted, and at least 6 bits committed, the beat commits nothing, leaves `LASTPOL`, keeps the advanced counts, sets `TERM` and
`DEC_TERM`, and the decoder goes to DRAIN, or to IDLE on the last beat. -/
def Obligations.RunBeatTerminates : Prop :=
  ∀ (s : State) (b : Beat), s.dstate = .run →
    s.gapThr.toNat < min (s.gapcnt.toNat + 1) 0xFFFFFFFF → 6 ≤ s.bitcnt.toNat →
    (acceptBeat b s).dstate = (if b.last then .idle else .drain) ∧ (acceptBeat b s).term = true ∧
    (acceptBeat b s).done = (b.last || s.done) ∧
    (acceptBeat b s).irqStatus = s.irqStatus ||| (if b.last then 0b00011#5 else 0b00010#5) ∧
    (acceptBeat b s).tcnt.toNat = min (s.tcnt.toNat + 1) 0xFFFFFFFF ∧
    (acceptBeat b s).gapcnt.toNat = min (s.gapcnt.toNat + 1) 0xFFFFFFFF ∧
    (acceptBeat b s).lastpol = s.lastpol ∧ (acceptBeat b s).bitcnt = s.bitcnt ∧
    (acceptBeat b s).bitbuf = s.bitbuf ∧ (acceptBeat b s).ovf = s.ovf ∧ (acceptBeat b s).streamB = s.streamB

/-- Commit (42 R159, R160, R164, R165): a beat that does not terminate, comes at least `EDGE_THR` samples after the last commit
and changes the polarity commits the bit 1 for POS and 0 for ZERO and NEG: into BITBUF at `BITCNT` while it has room, else
`OVF`; one stream-B beat, its index `BITCNT`, at saturation too (log entry 10); both counts to 0; `BITCNT` up by 1, saturating. The
last beat, and no other, sets `DONE` and `DEC_DONE`, and no other interrupt bit (R163, 60 R234). In every legal build the polarity is the sign of the low `VW`
bits of the voltage, and the tag is copied (20_memory R74, 30_encoding R107, 41 R140; the lanes, log entry 4). -/
def Obligations.RunBeatCommits : Prop :=
  (∀ (p : Params) (b : Beat), p.Legal → ReadsTheVoltage p b ∧ CopiesTheLanes p b) ∧
  ∀ (s : State) (b : Beat), s.dstate = .run →
    ¬ (s.gapThr.toNat < min (s.gapcnt.toNat + 1) 0xFFFFFFFF ∧ 6 ≤ s.bitcnt.toNat) →
    s.edgeThr.toNat ≤ min (s.tcnt.toNat + 1) 0xFFFFFFFF → s.lastpol ≠ beatPolarity s.params b →
    (acceptBeat b s).tcnt = 0 ∧ (acceptBeat b s).gapcnt = 0 ∧ (acceptBeat b s).lastpol = beatPolarity s.params b ∧
    (acceptBeat b s).bitcnt.toNat = min (s.bitcnt.toNat + 1) 0xFFFFFFFF ∧
    (acceptBeat b s).streamB =
      { value := decide (beatPolarity s.params b = .pos), index := s.bitcnt, sidx := s.sidx,
        tag := wiredTag s.params b } :: s.streamB ∧
    (s.bitcnt.toNat < s.params.bitbufDepth →
      bitRead (acceptBeat b s) s.bitcnt.toNat = decide (beatPolarity s.params b = .pos) ∧
      (∀ j, j ≠ s.bitcnt.toNat → bitRead (acceptBeat b s) j = bitRead s j) ∧ (acceptBeat b s).ovf = s.ovf) ∧
    (s.params.bitbufDepth ≤ s.bitcnt.toNat →
      (acceptBeat b s).bitbuf = s.bitbuf ∧ (acceptBeat b s).ovf = true ∧
      bitLen (acceptBeat b s) = s.params.bitbufDepth) ∧
    (acceptBeat b s).dstate = (if b.last then .idle else .run) ∧ (acceptBeat b s).term = s.term ∧
    (acceptBeat b s).done = (b.last || s.done) ∧
    (acceptBeat b s).irqStatus = s.irqStatus ||| (if b.last then 0b00001#5 else 0)

/-- A beat in RUN that neither terminates nor qualifies (42 R159, R161, R157 (c)): no bit is committed, both counts advance, and
`LASTPOL` follows the sample. The last beat, and no other, sets `DONE` and `DEC_DONE`, and no other interrupt bit (R163, 60
R234). In every legal build the polarity is the sign of the low `VW` bits of the voltage (30_encoding R107, 41 R140). -/
def Obligations.RunBeatPasses : Prop :=
  (∀ (p : Params) (b : Beat), p.Legal → ReadsTheVoltage p b) ∧
  ∀ (s : State) (b : Beat), s.dstate = .run →
    ¬ (s.gapThr.toNat < min (s.gapcnt.toNat + 1) 0xFFFFFFFF ∧ 6 ≤ s.bitcnt.toNat) →
    (min (s.tcnt.toNat + 1) 0xFFFFFFFF < s.edgeThr.toNat ∨ s.lastpol = beatPolarity s.params b) →
    (acceptBeat b s).tcnt.toNat = min (s.tcnt.toNat + 1) 0xFFFFFFFF ∧
    (acceptBeat b s).gapcnt.toNat = min (s.gapcnt.toNat + 1) 0xFFFFFFFF ∧
    (acceptBeat b s).lastpol = beatPolarity s.params b ∧ (acceptBeat b s).bitcnt = s.bitcnt ∧
    (acceptBeat b s).bitbuf = s.bitbuf ∧ (acceptBeat b s).ovf = s.ovf ∧ (acceptBeat b s).streamB = s.streamB ∧
    (acceptBeat b s).dstate = (if b.last then .idle else .run) ∧ (acceptBeat b s).term = s.term ∧
    (acceptBeat b s).done = (b.last || s.done) ∧
    (acceptBeat b s).irqStatus = s.irqStatus ||| (if b.last then 0b00001#5 else 0)

/-- A beat in DRAIN (42 R162): it is counted and annotated, and `TCNT`, `GAPCNT`, `LASTPOL`, `BITCNT`, BITBUF and stream B do not
change; the last one ends the capture (R163). -/
def Obligations.DrainBeatDecodesNothing : Prop :=
  ∀ (s : State) (b : Beat), s.dstate = .drain →
    acceptBeat b s =
      { s with
        dstate := if b.last then .idle else .drain, done := b.last || s.done,
        irqStatus := s.irqStatus ||| (if b.last then 0b00001#5 else 0),
        irqSetNow := s.irqSetNow ||| (if b.last then 0b00001#5 else 0),
        sidx := s.sidx + 1, asince := (acceptBeat b s).asince, streamA := (acceptBeat b s).streamA }

/-- The alignment step of every accepted beat (43 R181, R183, R184): the alignment registers take the bit the beat committed, if
it committed one, else `ASINCE` advances, saturating at 255; one stream-A beat when `ALIGN_EN` = 1 and none when it is 0. In every
legal build the beat carries the sample's tag and voltage code unchanged (20_memory R75; the lanes, log entry 4). -/
def Obligations.AlignStepOfAnAcceptedBeat : Prop :=
  (∀ (p : Params) (b : Beat), p.Legal → CopiesTheLanes p b) ∧
  ∀ (s : State) (b : Beat), s.dstate ≠ .idle →
    (∀ x : BBeat, (acceptBeat b s).streamB = x :: s.streamB →
      (acceptBeat b s).ahave = true ∧ (acceptBeat b s).aidx = x.index ∧ (acceptBeat b s).aval = x.value ∧
      (acceptBeat b s).asince = 0) ∧
    ((acceptBeat b s).streamB = s.streamB →
      (acceptBeat b s).ahave = s.ahave ∧ (acceptBeat b s).aidx = s.aidx ∧ (acceptBeat b s).aval = s.aval ∧
      (acceptBeat b s).asince.toNat = min (s.asince.toNat + 1) 255) ∧
    ((acceptBeat b s).streamB = s.streamB ∨ ∃ x : BBeat, (acceptBeat b s).streamB = x :: s.streamB) ∧
    (s.alignEn = false → (acceptBeat b s).streamA = s.streamA) ∧
    (s.alignEn = true → (acceptBeat b s).streamA =
      (if (acceptBeat b s).ahave = true ∧ (acceptBeat b s).asince.toNat ≤ 125 then
        { sidx := s.sidx, tag := wiredTag s.params b, voltage := wiredVoltage s.params b, present := true,
          bitIndex := (acceptBeat b s).aidx, bitValue := (acceptBeat b s).aval }
      else
        { sidx := s.sidx, tag := wiredTag s.params b, voltage := wiredVoltage s.params b, present := false,
          bitIndex := 0xFFFFFFFF, bitValue := false }) :: s.streamA)

/-- `DSTATE` changes exactly as the table of 42 R154 says, event by event: a beat, a completion, a host access, reset. -/
def Obligations.DecoderStateMovesOnlyByTheTable : Prop :=
  (∀ s : State, s.source = [] → (takeBeat s).dstate = s.dstate) ∧
  (∀ (s : State) (b : Beat) (rest : List Beat), s.source = b :: rest →
    (takeBeat s).dstate =
      match s.dstate with
      | .idle => .idle
      | .run =>
        if b.last then .idle
        else if s.gapThr.toNat < min (s.gapcnt.toNat + 1) 0xFFFFFFFF ∧ 6 ≤ s.bitcnt.toNat then .drain
        else .run
      | .drain => if b.last then .idle else .drain) ∧
  (∀ s t : State, EngineHolds s → completionEvent s = .next t → t.dstate = s.dstate) ∧
  (∀ (s t : State) (op : Option HostOp), hostAccess op s = .next t →
    (t.dstate ≠ s.dstate →
      ∃ offset w, op = some (.write offset w) ∧ offset.toNat / 4 = 5 ∧ s.busy = false ∧
        ((decodeWord w = .ok .decode ∧ s.dstate = .idle ∧ t.dstate = .run) ∨
         (decodeWord w = .ok .clear ∧ t.dstate = .idle))) ∧
    ∀ offset w, op = some (.write offset w) → offset.toNat / 4 = 5 → s.busy = false →
      (decodeWord w = .ok .decode → s.dstate = .idle → t.dstate = .run) ∧
      (decodeWord w = .ok .clear → t.dstate = .idle)) ∧
  ∀ (s : State) (op : Option HostOp), (resetCycle op s).dstate = .idle

/-- The register view after reset (70 R261), in every build: every register of the map, the BITBUF window, every OUTBUF byte
unwritten, and the hidden state the spec gives. `PARAMS` is the build's constant, 0x40100D0E for the default parameters. -/
def Obligations.ResetRegisterView : Prop :=
  ∀ (p : Params) (s : State), s = { State.reset with params := p } →
    readWord 0x000 s = 0x4D444543 ∧ readWord 0x004 s = 0x00000001 ∧ readWord 0x00C s = 0x00000001 ∧
    readWord 0x010 s = 0 ∧ readWord 0x014 s = 0 ∧ readWord 0x018 s = 0 ∧
    readWord 0x01C s = 0 ∧ readWord 0x020 s = 0 ∧ readWord 0x024 s = 70 ∧
    readWord 0x028 s = 150 ∧ readWord 0x02C s = 0 ∧ readWord 0x030 s = 0 ∧
    readWord 0x034 s = 3 ∧ readWord 0x038 s = 0 ∧ readWord 0x03C s = 0 ∧
    readWord 0x040 s = 0 ∧ readWord 0x044 s = 0xFFFFFFFF ∧ readWord 0x048 s = 0 ∧
    readWord 0x04C s = 0 ∧ readWord 0x050 s = 0 ∧ readWord 0x054 s = 0 ∧
    readWord 0x058 s = 0 ∧ readWord 0x05C s = 0xFFFFFFFF ∧ readWord 0x060 s = 1 ∧
    readWord 0x064 s = 0 ∧ readWord 0x068 s = 0 ∧ readWord 0x06C s = 0xFFFFFFFF ∧
    (p = Params.default → readWord 0x008 s = 0x40100D0E) ∧
    (p.Legal → (readWord 0x008 s).toNat = p.bbLog2 + 2 ^ 8 * p.obLog2 + 2 ^ 16 * p.vw + 2 ^ 24 * p.tagw) ∧
    (∀ offset : BitVec 16, 0x4000 ≤ offset.toNat → offset.toNat < 0x8000 → readWord offset s = 0) ∧
    (∀ j, outRead s j = none) ∧ s.busy = false ∧ irq s = false ∧ sReady s = false

/-- A cycle with reset asserted (70 R260, 93 I7): every register and buffer takes its reset value, whatever was going on; no beat
leaves the source, no stream beat is emitted, the interrupt output is low, a host read returns four draws and a host write
changes nothing. The build, the queues of the environment and what it has seen stay (the model's cycle, draws and records: log
entries 3, 5 and 12). The command latch and the contents of BITBUF, which R54, R261 and R262 leave unspecified, are the model's
choice: a latch of zeros (log entry 7), and no bit listed (log entry 6). -/
def Obligations.ResetCycleRestoresEverything : Prop :=
  ∀ (s : State) (c : Cycle) (rest : List Cycle), s.inputs = c :: rest → c.rst = true →
    ∃ t : State, step s = .next t ∧ irq t = false ∧
      t = { State.reset with
            params := s.params, source := s.source, inputs := rest, streamB := s.streamB, streamA := s.streamA,
            draws := t.draws, reads := t.reads } ∧
      (∀ offset, c.host = some (.read offset) →
        t.reads = (offset, Config.draw (s.draws + 3) ++ Config.draw (s.draws + 2) ++ Config.draw (s.draws + 1)
          ++ Config.draw s.draws) :: s.reads ∧ t.draws = s.draws + 4) ∧
      ((∀ offset, c.host ≠ some (.read offset)) → t.reads = s.reads ∧ t.draws = s.draws)

/-- A host read returns the word as it stands and changes no register, buffer or stream (20_memory R82, R83): in a cycle in which
nothing else happens, only the record of reads and the count of draws move. That a register reads as it stands while `BUSY` = 1 too
is the model's reading of R85 (log entry 20). -/
def Obligations.ReadsHaveNoSideEffects : Prop :=
  ∀ (s : State) (offset : BitVec 16) (rest : List Cycle), s.inputs = hostCycle (.read offset) :: rest →
    step s = .next
      { s with
        inputs := rest, irqSetNow := 0, draws := s.draws + 4,
        reads := (offset, readWord offset { s with inputs := rest, irqSetNow := 0 }) :: s.reads }

/-- The BITBUF read window (20_memory R77): bit `j` of word `k` is BitString bit `32k + j`, and 0 at and above `BITLEN`; writes to
the window are ignored. A beat changes no bit of the BitString (R86). -/
def Obligations.BitbufWindowShowsTheBitString : Prop :=
  (∀ (s : State) (k : Nat), k < 4096 →
    (∀ j, j < 32 → (readWord (BitVec.ofNat 16 (0x4000 + 4 * k)) s).getLsbD j =
      (decide (32 * k + j < bitLen s) && bitRead s (32 * k + j))) ∧
    ∀ w, writeWord (BitVec.ofNat 16 (0x4000 + 4 * k)) w s = .next s) ∧
  ∀ (s : State) (i : Nat), i < bitLen s → i < bitLen (takeBeat s) ∧ bitRead (takeBeat s) i = bitRead s i

/-- The OUTBUF read window (20_memory R79, R80, R85; log entries 5 and 11): byte `j` of word `k` is OUTBUF byte `4k + j`,
little-endian; a draw while `BUSY` = 1 or where nothing was written, 0 at and above the depth; writes to the window are ignored. -/
def Obligations.OutbufWindowShowsTheBytes : Prop :=
  ∀ (s : State) (k : Nat), k < 8192 →
    (∀ j, j < 4 →
      (readWord (BitVec.ofNat 16 (0x8000 + 4 * k)) s).extractLsb' (8 * j) 8 =
        if s.busy = true then Config.draw (s.draws + j)
        else if 4 * k + j < s.params.outbufDepth then (outRead s (4 * k + j)).getD (Config.draw (s.draws + j))
        else 0) ∧
    ∀ w, writeWord (BitVec.ofNat 16 (0x8000 + 4 * k)) w s = .next s

/-- The register space is word-only (20_memory R70, R72): the low two bits of an offset do not matter. -/
def Obligations.LowAddressBitsAreIgnored : Prop :=
  ∀ (s : State) (offset : BitVec 16) (w : Word),
    readWord offset s = readWord (BitVec.ofNat 16 (4 * (offset.toNat / 4))) s ∧
    writeWord offset w s = writeWord (BitVec.ofNat 16 (4 * (offset.toNat / 4))) w s

/-- Reserved and absent locations (20_memory R73): reserved offsets and reserved register bits read 0; writes to reserved offsets,
to read-only registers and to the windows are ignored and set no flag; `CMD` reads 0; locked threshold writes and busy `CMD`
writes set `DROP` and change nothing else. -/
def Obligations.AbsentPlacesIgnoreWrites : Prop :=
  (∀ (s : State) (offset : BitVec 16), 0x070 ≤ offset.toNat → offset.toNat < 0x4000 → readWord offset s = 0) ∧
  (∀ s : State, readWord 0x008 s &&& 0x80C0E0E0 = 0 ∧ readWord 0x00C s &&& 0xFFFFFFFE = 0 ∧
    readWord 0x010 s &&& 0xFFFFFF80 = 0 ∧ readWord 0x018 s &&& 0xFFFFFFF0 = 0 ∧ readWord 0x01C s &&& 0xFFFFFFE0 = 0 ∧
    readWord 0x020 s &&& 0xFFFFFFE0 = 0 ∧ readWord 0x034 s &&& 0xFFFFFFFC = 0 ∧ readWord 0x068 s &&& 0xFFFF00FC = 0) ∧
  (∀ s : State, readWord 0x014 s = 0) ∧
  (∀ (s : State) (offset : BitVec 16) (w : Word),
    (0x070 ≤ offset.toNat ∨ offset.toNat / 4 ∈ [0, 1, 2, 4, 6, 11, 12, 13, 14, 15, 16, 17, 21, 25, 26, 27]) →
    writeWord offset w s = .next s) ∧
  ∀ (s : State) (w : Word),
    (s.dstate ≠ .idle → writeWord 0x024 w s = .next
      { s with irqStatus := s.irqStatus ||| 0b10000#5, irqSetNow := s.irqSetNow ||| 0b10000#5 }) ∧
    (s.dstate ≠ .idle → writeWord 0x028 w s = .next
      { s with irqStatus := s.irqStatus ||| 0b10000#5, irqSetNow := s.irqSetNow ||| 0b10000#5 }) ∧
    (s.busy = true → writeWord 0x014 w s = .next
      { s with irqStatus := s.irqStatus ||| 0b10000#5, irqSetNow := s.irqSetNow ||| 0b10000#5 })

/-- The writable registers (10_state R22, R26, R31, R41 to R43, R45 to R47): a write changes that register only, and it reads back
what was written, reserved bits as 0. That it does so while `BUSY` = 1 too is 70 R266 for the operand registers and the model's
reading of 20_memory R85 for the others (log entry 20). -/
def Obligations.WritableRegistersReadBack : Prop :=
  ∀ (s : State) (w : Word),
    (writeWord 0x00C w s = .next { s with alignEn := w.getLsbD 0 } ∧
      readWord 0x00C { s with alignEn := w.getLsbD 0 } = w &&& 0x00000001) ∧
    (writeWord 0x020 w s = .next { s with irqEnable := w.setWidth 5 } ∧
      readWord 0x020 { s with irqEnable := w.setWidth 5 } = w &&& 0x0000001F) ∧
    (writeWord 0x048 w s = .next { s with src := w } ∧ readWord 0x048 { s with src := w } = w) ∧
    (writeWord 0x04C w s = .next { s with len := w } ∧ readWord 0x04C { s with len := w } = w) ∧
    (writeWord 0x050 w s = .next { s with dst := w } ∧ readWord 0x050 { s with dst := w } = w) ∧
    (writeWord 0x058 w s = .next { s with opa := w } ∧ readWord 0x058 { s with opa := w } = w) ∧
    (writeWord 0x05C w s = .next { s with opb := w } ∧ readWord 0x05C { s with opb := w } = w) ∧
    (writeWord 0x060 w s = .next { s with opc := w } ∧ readWord 0x060 { s with opc := w } = w)

/-- The thresholds (10_state R32, R33, 42 R153): every value is taken in IDLE and reads back; outside IDLE the write is ignored and
sets `DROP`; so no step that ends outside IDLE changes a threshold. That a threshold reads back while `BUSY` = 1 too is the model's
reading of 20_memory R85 (log entry 20). -/
def Obligations.ThresholdsAreWrittenOnlyInIdle : Prop :=
  (∀ (s : State) (w : Word), s.dstate = .idle →
    writeWord 0x024 w s = .next { s with edgeThr := w } ∧ readWord 0x024 { s with edgeThr := w } = w ∧
    writeWord 0x028 w s = .next { s with gapThr := w } ∧ readWord 0x028 { s with gapThr := w } = w) ∧
  (∀ (s : State) (w : Word), s.dstate ≠ .idle →
    writeWord 0x024 w s = .next
      { s with irqStatus := s.irqStatus ||| 0b10000#5, irqSetNow := s.irqSetNow ||| 0b10000#5 } ∧
    writeWord 0x028 w s = .next
      { s with irqStatus := s.irqStatus ||| 0b10000#5, irqSetNow := s.irqSetNow ||| 0b10000#5 }) ∧
  ∀ s t : State, step s = .next t → t.dstate ≠ .idle → t.edgeThr = s.edgeThr ∧ t.gapThr = s.gapThr

/-- The acknowledge (60 R238, 10_state R30): writing 1 to a bit of `IRQ_STATUS` clears it, writing 0 leaves it, and no other state
changes; a bit that the hardware sets in the same cycle ends set (by the model's own field `irqSetNow`, log entry 8): `DEC_DONE` of
a last beat, `DEC_TERM` of a terminating one, `CMD_DONE` of a completion, `CMD_ERR` of a completion with a code that is not OK (R234). -/
def Obligations.AcknowledgeClearsAndSetWins : Prop :=
  (∀ (s : State) (w : Word), ∃ t : State, writeWord 0x01C w s = .next t ∧
    t = { s with irqStatus := t.irqStatus } ∧
    ∀ j, j < 5 → t.irqStatus.getLsbD j = (s.irqStatus.getLsbD j && (!w.getLsbD j || s.irqSetNow.getLsbD j))) ∧
  (∀ (s : State) (w : Word) (rest : List Cycle), s.inputs = hostCycle (.write 0x01C w) :: rest →
    ∃ t : State, step s = .next t ∧
      ∀ j, j < 5 → t.irqStatus.getLsbD j = (s.irqStatus.getLsbD j && !w.getLsbD j)) ∧
  (∀ (s : State) (w : Word) (rest : List Cycle),
    s.inputs = { rst := false, sValid := false, complete := true, host := some (.write 0x01C w) } :: rest →
    s.busy = true → EngineHolds s →
    ∃ t : State, step s = .next t ∧ t.busy = false ∧ t.irqStatus.getLsbD 2 = true ∧
      t.irqStatus.getLsbD 3 = (decide (t.err ≠ .ok) || (s.irqStatus.getLsbD 3 && !w.getLsbD 3)) ∧
      ∀ j, j ∈ [0, 1, 4] → t.irqStatus.getLsbD j = (s.irqStatus.getLsbD j && !w.getLsbD j)) ∧
  ∀ (s : State) (w : Word) (rest : List Cycle) (b : Beat) (more : List Beat) (complete : Bool),
    s.inputs = { rst := false, sValid := true, complete := complete, host := some (.write 0x01C w) } :: rest →
    s.source = b :: more → s.dstate ≠ .idle → EngineHolds s →
    ∃ t : State, step s = .next t ∧
      (t.irqStatus.getLsbD 0 = (b.last || (s.irqStatus.getLsbD 0 && !w.getLsbD 0))) ∧
      (t.irqStatus.getLsbD 1 =
        (decide (s.dstate = .run ∧ s.gapThr.toNat < min (s.gapcnt.toNat + 1) 0xFFFFFFFF ∧ 6 ≤ s.bitcnt.toNat) ||
          (s.irqStatus.getLsbD 1 && !w.getLsbD 1))) ∧
      (complete = true → s.busy = true → t.irqStatus.getLsbD 2 = true ∧
        t.irqStatus.getLsbD 3 = (decide (t.err ≠ .ok) || (s.irqStatus.getLsbD 3 && !w.getLsbD 3))) ∧
      (complete = false ∨ s.busy = false →
        t.irqStatus.getLsbD 2 = (s.irqStatus.getLsbD 2 && !w.getLsbD 2) ∧
        t.irqStatus.getLsbD 3 = (s.irqStatus.getLsbD 3 && !w.getLsbD 3)) ∧
      t.irqStatus.getLsbD 4 = (s.irqStatus.getLsbD 4 && !w.getLsbD 4)

/-- The interrupt output (60 R235): the or over the five sources of status and enable. -/
def Obligations.InterruptLevel : Prop :=
  ∀ s : State, irq s = true ↔ ∃ j, j < 5 ∧ s.irqStatus.getLsbD j = true ∧ s.irqEnable.getLsbD j = true

/-- The fields of `STATUS` (10_state R27), `LASTPOL` (R36, 00_scope R14) and `ALIGN_STATE` (R49) as the host reads them. That they
read as they stand while `BUSY` = 1 too is the model's reading of 20_memory R85 (log entry 20). -/
def Obligations.StatusAndAlignFields : Prop :=
  ∀ s : State,
    ((readWord 0x010 s).toNat = (match s.dstate with | .idle => 0 | .run => 1 | .drain => 2) + 4 * s.busy.toNat
      + 8 * s.done.toNat + 16 * s.term.toNat + 32 * s.ovf.toNat + 64 * s.found.toNat) ∧
    ((readWord 0x034 s).toNat = (match s.lastpol with | .neg => 3 | .zero => 0 | .pos => 1)) ∧
    ((readWord 0x068 s).toNat = s.ahave.toNat + 2 * s.aval.toNat + 256 * s.asince.toNat)

/-- `PARAMS` (10_state R25): every legal build reports its parameters in their fields; the default build reads 0x40100D0E. -/
def Obligations.ParamsReportsTheBuild : Prop :=
  (∀ s : State, s.params.Legal →
    (readWord 0x008 s).toNat = s.params.bbLog2 + 2 ^ 8 * s.params.obLog2 + 2 ^ 16 * s.params.vw + 2 ^ 24 * s.params.tagw ∧
    (64 ≤ s.params.bitbufDepth ∧ s.params.bitbufDepth ≤ 131072) ∧
    (64 ≤ s.params.outbufDepth ∧ s.params.outbufDepth ≤ 32768)) ∧
  (∀ (s : State) (w : Word), writeWord 0x008 w s = .next s) ∧
  ∀ s : State, s.params = Params.default →
    readWord 0x008 s = 0x40100D0E ∧ s.params.bitbufDepth = 16384 ∧ s.params.outbufDepth = 8192

/-- The threshold conversion (42 R152): with T / Ts = num / den, `TCNT ≥ EDGE_THR` says TCNT ≥ 0.7 T / Ts and `GAPCNT > GAP_THR`
says GAPCNT > 1.5 T / Ts; at T / Ts = 100 the thresholds are 70 and 150, the reset values. -/
def Obligations.ThresholdFormulaIsExact : Prop :=
  (∀ num den c : Nat, 0 < den → (edgeThrFor num den ≤ c ↔ 7 * num ≤ 10 * den * c) ∧
    (gapThrFor num den < c ↔ 15 * num < 10 * den * c)) ∧
  State.reset.edgeThr.toNat = edgeThrFor 100 1 ∧ State.reset.gapThr.toNat = gapThrFor 100 1

/-- The invariants below hold at reset (70 R261). -/
def Obligations.InvariantsHoldAtReset : Prop :=
  CountersAgree State.reset ∧ BuffersCanonical State.reset ∧ EngineHolds State.reset ∧ LatchedLength State.reset ∧
  CaptureFlags State.reset ∧
  BitsStored State.reset ∧ OverflowMeaning State.reset ∧ Located State.reset ∧ AlignAgrees State.reset ∧
  IndicesAreReal State.reset ∧ AbsentIsMarked State.reset ∧ SampleDistance State.reset ∧ State.reset.params.Legal

/-- `TCNT` = `GAPCNT` in every reachable state (10_state R52): every step keeps it. -/
def Obligations.StepKeepsCountersEqual : Prop :=
  CountersAgree State.reset ∧ ∀ s t : State, CountersAgree s → step s = .next t → CountersAgree t

/-- Every step keeps BITBUF and OUTBUF in canonical form and within their depths (20_memory R76, R79; the model's canonical form,
log entry 18). -/
def Obligations.StepKeepsBuffersCanonical : Prop :=
  ∀ s t : State, BuffersCanonical s → step s = .next t → BuffersCanonical t

/-- Every step keeps a busy engine's latch holding a multi-cycle command (20_memory R84, 60 R236) and a latched length within the
BitString (44 R190), and never changes the build. -/
def Obligations.StepKeepsEngineHolding : Prop :=
  (∀ s t : State, EngineHolds s → step s = .next t → EngineHolds t ∧ t.params = s.params) ∧
  ∀ s t : State, LatchedLength s → step s = .next t → LatchedLength t

/-- Every step keeps what `DONE`, `TERM`, `DSTATE` and `BITCNT` say of each other (10_state R27, 42 R158, R163). -/
def Obligations.StepKeepsCaptureFlags : Prop :=
  ∀ s t : State, EngineHolds s → CaptureFlags s → step s = .next t → CaptureFlags t

/-- Every step keeps the BitString stored and `OVF` meaning that a bit was not (20_memory R76, 42 R160, R164). -/
def Obligations.StepKeepsBitsStored : Prop :=
  ∀ s t : State, BitsStored s → OverflowMeaning s → step s = .next t → BitsStored t ∧ OverflowMeaning t

/-- Every step keeps the meaning of `FOUND` and `FRAME_OFFSET` (44 R192, R193): while `FOUND` = 1 the BitString is at rest and the
offset is the end of its leftmost match; while `FOUND` = 0 the offset is 0xFFFFFFFF. -/
def Obligations.StepKeepsLocated : Prop :=
  ∀ s t : State, EngineHolds s → LatchedLength s → Located s → step s = .next t → Located t

/-- Every step keeps the agreement of the alignment registers with the decoder's (10_state R49, R50, 43 R181), that an absent bit
of stream A has the index `NOBIT`, and, from every state whose `BITCNT` is not saturated, that no beat of stream B and no present
bit of stream A has it (43 R183; at saturation R160 gives that index, log entry 10). -/
def Obligations.StepKeepsAlignment : Prop :=
  ∀ s t : State, EngineHolds s → AlignAgrees s → step s = .next t →
    AlignAgrees t ∧ (AbsentIsMarked s → AbsentIsMarked t) ∧ (s.bitcnt ≠ 0xFFFFFFFF → IndicesAreReal s → IndicesAreReal t)

/-- A capture is one pass of the source's `decode` (00_scope R5, 42 R150, R151, R165): from the state DECODE leaves, after the
cycles that deliver a capture of fewer than 2^32 samples, one beat a cycle (log entry 2), the new stream-B beats are the bits
the source's algorithm commits, with their samples' indices and tags; BITBUF holds the first of them; the capture has ended. -/
def Obligations.CaptureIsTheSourcesDecode : Prop :=
  ∀ (s : State) (bs : List Beat), FreshRun s → IsCapture bs → bs.length < 2 ^ 32 → Delivers bs s →
    ∃ t : State, Host.Core.run core bs.length s = .next t ∧
      t.streamB =
        (expectedB s.params bs (sourceDecode s.edgeThr.toNat s.gapThr.toNat (polarities s.params bs))).reverse ++ s.streamB ∧
      t.bitcnt.toNat = (sourceDecode s.edgeThr.toNat s.gapThr.toNat (polarities s.params bs)).length ∧
      (∀ i, i < bitLen t →
        (sourceDecode s.edgeThr.toNat s.gapThr.toNat (polarities s.params bs))[i]?.map (fun c => c.1) =
          some (bitRead t i)) ∧
      t.dstate = .idle ∧ t.done = true ∧ t.sidx.toNat = bs.length ∧ s.source = bs ++ t.source

/-- Alignment on the fly is the source's `align` (43 R180, R182, R185): with `ALIGN_EN` = 1 the new stream-A beats of a capture
are, sample for sample, the annotation by the source's `align` of its `decode`; for captures of fewer than 2^32 samples, delivered
one beat a cycle with nothing else in the cycles (the model's schedule, log entry 2). -/
def Obligations.CaptureIsTheSourcesAlign : Prop :=
  ∀ (s : State) (bs : List Beat), FreshRun s → s.alignEn = true → IsCapture bs → bs.length < 2 ^ 32 → Delivers bs s →
    ∃ t : State, Host.Core.run core bs.length s = .next t ∧
      t.streamA =
        (expectedA s.params bs (sourceDecode s.edgeThr.toNat s.gapThr.toNat (polarities s.params bs))).reverse ++ s.streamA

/-- Commits are spaced (42 R166 (a), (b), (c)). In a capture the new stream-B beats stand at strictly rising samples of it, any
two at least max(EDGE_THR, 1) apart, each at an index `i` with `i + 1 ≥ EDGE_THR` (delivery as in log entry 2). Under every
schedule: every step keeps `TCNT` the distance from the last commit in RUN, and a beat that commits does so at least
max(EDGE_THR, 1) samples after the newest stream-B beat, modulo the wrap of `SIDX`, or first at such an `i`. -/
def Obligations.CommitsAreSpaced : Prop :=
  (∀ (s : State) (bs : List Beat), FreshRun s → IsCapture bs → bs.length < 2 ^ 32 → Delivers bs s →
    ∃ (t : State) (new : List BBeat), Host.Core.run core bs.length s = .next t ∧ t.streamB = new.reverse ++ s.streamB ∧
      new.Pairwise (fun x y => x.sidx.toNat + max s.edgeThr.toNat 1 ≤ y.sidx.toNat) ∧
      ∀ x ∈ new, s.edgeThr.toNat ≤ x.sidx.toNat + 1 ∧ x.sidx.toNat < bs.length) ∧
  (∀ s t : State, SampleDistance s → step s = .next t → SampleDistance t) ∧
  ∀ (s : State) (b : Beat) (x : BBeat), SampleDistance s → s.dstate = .run → s.tcnt ≠ 0xFFFFFFFF →
    (acceptBeat b s).streamB = x :: s.streamB →
    (s.bitcnt = 0 → s.edgeThr.toNat ≤ x.sidx.toNat + 1) ∧
    (s.bitcnt ≠ 0 → ∃ y rest, s.streamB = y :: rest ∧ max s.edgeThr.toNat 1 ≤ (x.sidx - y.sidx).toNat)

/-- A clean waveform is recovered from its second bit on (42 R169, R152; 95 W3): period N even and at least 6, thresholds
ceil(0.7 N) and floor(1.5 N), the first two bits different: the new stream-B beats carry bit `k` for every `k` from 1, at
sample (k + 1/2) N. For captures of fewer than 2^32 samples, delivered one beat a cycle with nothing else in the cycles (the
model's schedule, log entry 2). It leaves out what R169 says of equal first bits and of N = 4, and samples after the last bit. -/
def Obligations.CleanWaveformIsRecovered : Prop :=
  ∀ (s : State) (bs : List Beat) (bits : List Bool) (b0 b1 : Bool) (more : List Bool) (n : Nat),
    FreshRun s → IsCapture bs → Delivers bs s → bits = b0 :: b1 :: more → b0 ≠ b1 → 6 ≤ n → n % 2 = 0 →
    bs.length < 2 ^ 32 → s.edgeThr.toNat = edgeThrFor n 1 → s.gapThr.toNat = gapThrFor n 1 →
    polarities s.params bs = cleanWave bits n →
    ∃ t : State, Host.Core.run core bs.length s = .next t ∧
      t.streamB =
        (expectedB s.params bs ((bits.zipIdx.drop 1).map (fun c => (c.1, c.2 * n + n / 2)))).reverse ++ s.streamB

/-- Stale BITBUF bits are never observable (20_memory R77, 10_state R54, 93 I6): two states that differ only in bits at or above
`BITLEN`, the latched length within it, answer every read alike and step to states that differ only so (what such a bit holds at
reset is free, log entry 6). -/
def Obligations.StaleBitsAreNeverObservable : Prop :=
  ∀ s s' : State, LatchedLength s → SameButStale s s' →
    (∀ offset, readWord offset s = readWord offset s') ∧ irq s = irq s' ∧
    ∀ t, step s = .next t → ∃ t', step s' = .next t' ∧ SameButStale t t'

/-- The registers a host reads whole (10_state R22 to R50), in every state: each shows its own element, `BITLEN` the computed
min(BITCNT, BITBUF_DEPTH), `ERR` the code of 60 R231, `CMD` 0. That a register reads as it stands while `BUSY` = 1 too is the
model's reading of 20_memory R85 (log entry 20). The fields of `STATUS`, `LASTPOL` and `ALIGN_STATE` are in
`StatusAndAlignFields`, those of `PARAMS` in `ParamsReportsTheBuild`. -/
def Obligations.RegistersReadTheState : Prop :=
  ∀ s : State,
    readWord 0x000 s = 0x4D444543 ∧ readWord 0x004 s = 0x00000001 ∧
    (readWord 0x00C s).toNat = s.alignEn.toNat ∧ readWord 0x014 s = 0 ∧
    ((readWord 0x018 s).toNat =
      match s.err with
      | .ok => 0
      | .malformed => 1
      | .notFound => 2
      | .range => 3
      | .badCmd => 4
      | .conflict => 5
      | .badArg => 6) ∧
    (readWord 0x01C s).toNat = s.irqStatus.toNat ∧ (readWord 0x020 s).toNat = s.irqEnable.toNat ∧
    readWord 0x024 s = s.edgeThr ∧ readWord 0x028 s = s.gapThr ∧ readWord 0x02C s = s.tcnt ∧
    readWord 0x030 s = s.gapcnt ∧ readWord 0x038 s = s.bitcnt ∧
    (readWord 0x03C s).toNat = min s.bitcnt.toNat s.params.bitbufDepth ∧ readWord 0x040 s = s.sidx ∧
    readWord 0x044 s = s.frameOffset ∧ readWord 0x048 s = s.src ∧ readWord 0x04C s = s.len ∧ readWord 0x050 s = s.dst ∧
    readWord 0x054 s = s.outlen ∧ readWord 0x058 s = s.opa ∧ readWord 0x05C s = s.opb ∧ readWord 0x060 s = s.opc ∧
    readWord 0x064 s = s.result ∧ readWord 0x06C s = s.aidx
end

