-- ==== Sys2Proof/Laws/State.lean ====
section
/-! SUPPORT. For each named update of the state, what every field is after it (all by rfl), and that a run of OUTBUF writes changes OUTBUF only. -/

namespace Sys2Proof.Machine

@[simp] theorem raiseIrq_dstate (bits : BitVec 5) (s : State) : (raiseIrq bits s).dstate = s.dstate := rfl
@[simp] theorem raiseIrq_busy (bits : BitVec 5) (s : State) : (raiseIrq bits s).busy = s.busy := rfl
@[simp] theorem raiseIrq_done (bits : BitVec 5) (s : State) : (raiseIrq bits s).done = s.done := rfl
@[simp] theorem raiseIrq_term (bits : BitVec 5) (s : State) : (raiseIrq bits s).term = s.term := rfl
@[simp] theorem raiseIrq_ovf (bits : BitVec 5) (s : State) : (raiseIrq bits s).ovf = s.ovf := rfl
@[simp] theorem raiseIrq_found (bits : BitVec 5) (s : State) : (raiseIrq bits s).found = s.found := rfl
@[simp] theorem raiseIrq_err (bits : BitVec 5) (s : State) : (raiseIrq bits s).err = s.err := rfl
@[simp] theorem raiseIrq_irqStatus (bits : BitVec 5) (s : State) : (raiseIrq bits s).irqStatus = s.irqStatus ||| bits := rfl
@[simp] theorem raiseIrq_irqEnable (bits : BitVec 5) (s : State) : (raiseIrq bits s).irqEnable = s.irqEnable := rfl
@[simp] theorem raiseIrq_alignEn (bits : BitVec 5) (s : State) : (raiseIrq bits s).alignEn = s.alignEn := rfl
@[simp] theorem raiseIrq_edgeThr (bits : BitVec 5) (s : State) : (raiseIrq bits s).edgeThr = s.edgeThr := rfl
@[simp] theorem raiseIrq_gapThr (bits : BitVec 5) (s : State) : (raiseIrq bits s).gapThr = s.gapThr := rfl
@[simp] theorem raiseIrq_tcnt (bits : BitVec 5) (s : State) : (raiseIrq bits s).tcnt = s.tcnt := rfl
@[simp] theorem raiseIrq_gapcnt (bits : BitVec 5) (s : State) : (raiseIrq bits s).gapcnt = s.gapcnt := rfl
@[simp] theorem raiseIrq_lastpol (bits : BitVec 5) (s : State) : (raiseIrq bits s).lastpol = s.lastpol := rfl
@[simp] theorem raiseIrq_bitcnt (bits : BitVec 5) (s : State) : (raiseIrq bits s).bitcnt = s.bitcnt := rfl
@[simp] theorem raiseIrq_sidx (bits : BitVec 5) (s : State) : (raiseIrq bits s).sidx = s.sidx := rfl
@[simp] theorem raiseIrq_frameOffset (bits : BitVec 5) (s : State) : (raiseIrq bits s).frameOffset = s.frameOffset := rfl
@[simp] theorem raiseIrq_src (bits : BitVec 5) (s : State) : (raiseIrq bits s).src = s.src := rfl
@[simp] theorem raiseIrq_len (bits : BitVec 5) (s : State) : (raiseIrq bits s).len = s.len := rfl
@[simp] theorem raiseIrq_dst (bits : BitVec 5) (s : State) : (raiseIrq bits s).dst = s.dst := rfl
@[simp] theorem raiseIrq_outlen (bits : BitVec 5) (s : State) : (raiseIrq bits s).outlen = s.outlen := rfl
@[simp] theorem raiseIrq_opa (bits : BitVec 5) (s : State) : (raiseIrq bits s).opa = s.opa := rfl
@[simp] theorem raiseIrq_opb (bits : BitVec 5) (s : State) : (raiseIrq bits s).opb = s.opb := rfl
@[simp] theorem raiseIrq_opc (bits : BitVec 5) (s : State) : (raiseIrq bits s).opc = s.opc := rfl
@[simp] theorem raiseIrq_result (bits : BitVec 5) (s : State) : (raiseIrq bits s).result = s.result := rfl
@[simp] theorem raiseIrq_ahave (bits : BitVec 5) (s : State) : (raiseIrq bits s).ahave = s.ahave := rfl
@[simp] theorem raiseIrq_aval (bits : BitVec 5) (s : State) : (raiseIrq bits s).aval = s.aval := rfl
@[simp] theorem raiseIrq_asince (bits : BitVec 5) (s : State) : (raiseIrq bits s).asince = s.asince := rfl
@[simp] theorem raiseIrq_aidx (bits : BitVec 5) (s : State) : (raiseIrq bits s).aidx = s.aidx := rfl
@[simp] theorem raiseIrq_latch (bits : BitVec 5) (s : State) : (raiseIrq bits s).latch = s.latch := rfl
@[simp] theorem raiseIrq_bitbuf (bits : BitVec 5) (s : State) : (raiseIrq bits s).bitbuf = s.bitbuf := rfl
@[simp] theorem raiseIrq_outbuf (bits : BitVec 5) (s : State) : (raiseIrq bits s).outbuf = s.outbuf := rfl
@[simp] theorem raiseIrq_params (bits : BitVec 5) (s : State) : (raiseIrq bits s).params = s.params := rfl
@[simp] theorem raiseIrq_irqSetNow (bits : BitVec 5) (s : State) : (raiseIrq bits s).irqSetNow = s.irqSetNow ||| bits := rfl
@[simp] theorem raiseIrq_draws (bits : BitVec 5) (s : State) : (raiseIrq bits s).draws = s.draws := rfl
@[simp] theorem raiseIrq_source (bits : BitVec 5) (s : State) : (raiseIrq bits s).source = s.source := rfl
@[simp] theorem raiseIrq_inputs (bits : BitVec 5) (s : State) : (raiseIrq bits s).inputs = s.inputs := rfl
@[simp] theorem raiseIrq_streamB (bits : BitVec 5) (s : State) : (raiseIrq bits s).streamB = s.streamB := rfl
@[simp] theorem raiseIrq_streamA (bits : BitVec 5) (s : State) : (raiseIrq bits s).streamA = s.streamA := rfl
@[simp] theorem raiseIrq_reads (bits : BitVec 5) (s : State) : (raiseIrq bits s).reads = s.reads := rfl

@[simp] theorem complete_dstate (c : ErrCode) (s : State) : (complete c s).dstate = s.dstate := rfl
@[simp] theorem complete_busy (c : ErrCode) (s : State) : (complete c s).busy = s.busy := rfl
@[simp] theorem complete_done (c : ErrCode) (s : State) : (complete c s).done = s.done := rfl
@[simp] theorem complete_term (c : ErrCode) (s : State) : (complete c s).term = s.term := rfl
@[simp] theorem complete_ovf (c : ErrCode) (s : State) : (complete c s).ovf = s.ovf := rfl
@[simp] theorem complete_found (c : ErrCode) (s : State) : (complete c s).found = s.found := rfl
@[simp] theorem complete_err (c : ErrCode) (s : State) : (complete c s).err = c := rfl
@[simp] theorem complete_irqStatus (c : ErrCode) (s : State) : (complete c s).irqStatus = s.irqStatus ||| completionBits c := rfl
@[simp] theorem complete_irqEnable (c : ErrCode) (s : State) : (complete c s).irqEnable = s.irqEnable := rfl
@[simp] theorem complete_alignEn (c : ErrCode) (s : State) : (complete c s).alignEn = s.alignEn := rfl
@[simp] theorem complete_edgeThr (c : ErrCode) (s : State) : (complete c s).edgeThr = s.edgeThr := rfl
@[simp] theorem complete_gapThr (c : ErrCode) (s : State) : (complete c s).gapThr = s.gapThr := rfl
@[simp] theorem complete_tcnt (c : ErrCode) (s : State) : (complete c s).tcnt = s.tcnt := rfl
@[simp] theorem complete_gapcnt (c : ErrCode) (s : State) : (complete c s).gapcnt = s.gapcnt := rfl
@[simp] theorem complete_lastpol (c : ErrCode) (s : State) : (complete c s).lastpol = s.lastpol := rfl
@[simp] theorem complete_bitcnt (c : ErrCode) (s : State) : (complete c s).bitcnt = s.bitcnt := rfl
@[simp] theorem complete_sidx (c : ErrCode) (s : State) : (complete c s).sidx = s.sidx := rfl
@[simp] theorem complete_frameOffset (c : ErrCode) (s : State) : (complete c s).frameOffset = s.frameOffset := rfl
@[simp] theorem complete_src (c : ErrCode) (s : State) : (complete c s).src = s.src := rfl
@[simp] theorem complete_len (c : ErrCode) (s : State) : (complete c s).len = s.len := rfl
@[simp] theorem complete_dst (c : ErrCode) (s : State) : (complete c s).dst = s.dst := rfl
@[simp] theorem complete_outlen (c : ErrCode) (s : State) : (complete c s).outlen = s.outlen := rfl
@[simp] theorem complete_opa (c : ErrCode) (s : State) : (complete c s).opa = s.opa := rfl
@[simp] theorem complete_opb (c : ErrCode) (s : State) : (complete c s).opb = s.opb := rfl
@[simp] theorem complete_opc (c : ErrCode) (s : State) : (complete c s).opc = s.opc := rfl
@[simp] theorem complete_result (c : ErrCode) (s : State) : (complete c s).result = s.result := rfl
@[simp] theorem complete_ahave (c : ErrCode) (s : State) : (complete c s).ahave = s.ahave := rfl
@[simp] theorem complete_aval (c : ErrCode) (s : State) : (complete c s).aval = s.aval := rfl
@[simp] theorem complete_asince (c : ErrCode) (s : State) : (complete c s).asince = s.asince := rfl
@[simp] theorem complete_aidx (c : ErrCode) (s : State) : (complete c s).aidx = s.aidx := rfl
@[simp] theorem complete_latch (c : ErrCode) (s : State) : (complete c s).latch = s.latch := rfl
@[simp] theorem complete_bitbuf (c : ErrCode) (s : State) : (complete c s).bitbuf = s.bitbuf := rfl
@[simp] theorem complete_outbuf (c : ErrCode) (s : State) : (complete c s).outbuf = s.outbuf := rfl
@[simp] theorem complete_params (c : ErrCode) (s : State) : (complete c s).params = s.params := rfl
@[simp] theorem complete_irqSetNow (c : ErrCode) (s : State) : (complete c s).irqSetNow = s.irqSetNow ||| completionBits c := rfl
@[simp] theorem complete_draws (c : ErrCode) (s : State) : (complete c s).draws = s.draws := rfl
@[simp] theorem complete_source (c : ErrCode) (s : State) : (complete c s).source = s.source := rfl
@[simp] theorem complete_inputs (c : ErrCode) (s : State) : (complete c s).inputs = s.inputs := rfl
@[simp] theorem complete_streamB (c : ErrCode) (s : State) : (complete c s).streamB = s.streamB := rfl
@[simp] theorem complete_streamA (c : ErrCode) (s : State) : (complete c s).streamA = s.streamA := rfl
@[simp] theorem complete_reads (c : ErrCode) (s : State) : (complete c s).reads = s.reads := rfl

@[simp] theorem clearCapture_dstate (s : State) : (clearCapture s).dstate = s.dstate := rfl
@[simp] theorem clearCapture_busy (s : State) : (clearCapture s).busy = s.busy := rfl
@[simp] theorem clearCapture_done (s : State) : (clearCapture s).done = false := rfl
@[simp] theorem clearCapture_term (s : State) : (clearCapture s).term = false := rfl
@[simp] theorem clearCapture_ovf (s : State) : (clearCapture s).ovf = false := rfl
@[simp] theorem clearCapture_found (s : State) : (clearCapture s).found = false := rfl
@[simp] theorem clearCapture_err (s : State) : (clearCapture s).err = s.err := rfl
@[simp] theorem clearCapture_irqStatus (s : State) : (clearCapture s).irqStatus = s.irqStatus := rfl
@[simp] theorem clearCapture_irqEnable (s : State) : (clearCapture s).irqEnable = s.irqEnable := rfl
@[simp] theorem clearCapture_alignEn (s : State) : (clearCapture s).alignEn = s.alignEn := rfl
@[simp] theorem clearCapture_edgeThr (s : State) : (clearCapture s).edgeThr = s.edgeThr := rfl
@[simp] theorem clearCapture_gapThr (s : State) : (clearCapture s).gapThr = s.gapThr := rfl
@[simp] theorem clearCapture_tcnt (s : State) : (clearCapture s).tcnt = 0 := rfl
@[simp] theorem clearCapture_gapcnt (s : State) : (clearCapture s).gapcnt = 0 := rfl
@[simp] theorem clearCapture_lastpol (s : State) : (clearCapture s).lastpol = .neg := rfl
@[simp] theorem clearCapture_bitcnt (s : State) : (clearCapture s).bitcnt = 0 := rfl
@[simp] theorem clearCapture_sidx (s : State) : (clearCapture s).sidx = 0 := rfl
@[simp] theorem clearCapture_frameOffset (s : State) : (clearCapture s).frameOffset = Config.noIndex := rfl
@[simp] theorem clearCapture_src (s : State) : (clearCapture s).src = s.src := rfl
@[simp] theorem clearCapture_len (s : State) : (clearCapture s).len = s.len := rfl
@[simp] theorem clearCapture_dst (s : State) : (clearCapture s).dst = s.dst := rfl
@[simp] theorem clearCapture_outlen (s : State) : (clearCapture s).outlen = s.outlen := rfl
@[simp] theorem clearCapture_opa (s : State) : (clearCapture s).opa = s.opa := rfl
@[simp] theorem clearCapture_opb (s : State) : (clearCapture s).opb = s.opb := rfl
@[simp] theorem clearCapture_opc (s : State) : (clearCapture s).opc = s.opc := rfl
@[simp] theorem clearCapture_result (s : State) : (clearCapture s).result = s.result := rfl
@[simp] theorem clearCapture_ahave (s : State) : (clearCapture s).ahave = false := rfl
@[simp] theorem clearCapture_aval (s : State) : (clearCapture s).aval = false := rfl
@[simp] theorem clearCapture_asince (s : State) : (clearCapture s).asince = 0 := rfl
@[simp] theorem clearCapture_aidx (s : State) : (clearCapture s).aidx = Config.noIndex := rfl
@[simp] theorem clearCapture_latch (s : State) : (clearCapture s).latch = s.latch := rfl
@[simp] theorem clearCapture_bitbuf (s : State) : (clearCapture s).bitbuf = s.bitbuf := rfl
@[simp] theorem clearCapture_outbuf (s : State) : (clearCapture s).outbuf = s.outbuf := rfl
@[simp] theorem clearCapture_params (s : State) : (clearCapture s).params = s.params := rfl
@[simp] theorem clearCapture_irqSetNow (s : State) : (clearCapture s).irqSetNow = s.irqSetNow := rfl
@[simp] theorem clearCapture_draws (s : State) : (clearCapture s).draws = s.draws := rfl
@[simp] theorem clearCapture_source (s : State) : (clearCapture s).source = s.source := rfl
@[simp] theorem clearCapture_inputs (s : State) : (clearCapture s).inputs = s.inputs := rfl
@[simp] theorem clearCapture_streamB (s : State) : (clearCapture s).streamB = s.streamB := rfl
@[simp] theorem clearCapture_streamA (s : State) : (clearCapture s).streamA = s.streamA := rfl
@[simp] theorem clearCapture_reads (s : State) : (clearCapture s).reads = s.reads := rfl

@[simp] theorem bitWrite_dstate (i : Nat) (b : Bool) (s : State) : (bitWrite i b s).dstate = s.dstate := rfl
@[simp] theorem bitWrite_busy (i : Nat) (b : Bool) (s : State) : (bitWrite i b s).busy = s.busy := rfl
@[simp] theorem bitWrite_done (i : Nat) (b : Bool) (s : State) : (bitWrite i b s).done = s.done := rfl
@[simp] theorem bitWrite_term (i : Nat) (b : Bool) (s : State) : (bitWrite i b s).term = s.term := rfl
@[simp] theorem bitWrite_ovf (i : Nat) (b : Bool) (s : State) : (bitWrite i b s).ovf = s.ovf := rfl
@[simp] theorem bitWrite_found (i : Nat) (b : Bool) (s : State) : (bitWrite i b s).found = s.found := rfl
@[simp] theorem bitWrite_err (i : Nat) (b : Bool) (s : State) : (bitWrite i b s).err = s.err := rfl
@[simp] theorem bitWrite_irqStatus (i : Nat) (b : Bool) (s : State) : (bitWrite i b s).irqStatus = s.irqStatus := rfl
@[simp] theorem bitWrite_irqEnable (i : Nat) (b : Bool) (s : State) : (bitWrite i b s).irqEnable = s.irqEnable := rfl
@[simp] theorem bitWrite_alignEn (i : Nat) (b : Bool) (s : State) : (bitWrite i b s).alignEn = s.alignEn := rfl
@[simp] theorem bitWrite_edgeThr (i : Nat) (b : Bool) (s : State) : (bitWrite i b s).edgeThr = s.edgeThr := rfl
@[simp] theorem bitWrite_gapThr (i : Nat) (b : Bool) (s : State) : (bitWrite i b s).gapThr = s.gapThr := rfl
@[simp] theorem bitWrite_tcnt (i : Nat) (b : Bool) (s : State) : (bitWrite i b s).tcnt = s.tcnt := rfl
@[simp] theorem bitWrite_gapcnt (i : Nat) (b : Bool) (s : State) : (bitWrite i b s).gapcnt = s.gapcnt := rfl
@[simp] theorem bitWrite_lastpol (i : Nat) (b : Bool) (s : State) : (bitWrite i b s).lastpol = s.lastpol := rfl
@[simp] theorem bitWrite_bitcnt (i : Nat) (b : Bool) (s : State) : (bitWrite i b s).bitcnt = s.bitcnt := rfl
@[simp] theorem bitWrite_sidx (i : Nat) (b : Bool) (s : State) : (bitWrite i b s).sidx = s.sidx := rfl
@[simp] theorem bitWrite_frameOffset (i : Nat) (b : Bool) (s : State) : (bitWrite i b s).frameOffset = s.frameOffset := rfl
@[simp] theorem bitWrite_src (i : Nat) (b : Bool) (s : State) : (bitWrite i b s).src = s.src := rfl
@[simp] theorem bitWrite_len (i : Nat) (b : Bool) (s : State) : (bitWrite i b s).len = s.len := rfl
@[simp] theorem bitWrite_dst (i : Nat) (b : Bool) (s : State) : (bitWrite i b s).dst = s.dst := rfl
@[simp] theorem bitWrite_outlen (i : Nat) (b : Bool) (s : State) : (bitWrite i b s).outlen = s.outlen := rfl
@[simp] theorem bitWrite_opa (i : Nat) (b : Bool) (s : State) : (bitWrite i b s).opa = s.opa := rfl
@[simp] theorem bitWrite_opb (i : Nat) (b : Bool) (s : State) : (bitWrite i b s).opb = s.opb := rfl
@[simp] theorem bitWrite_opc (i : Nat) (b : Bool) (s : State) : (bitWrite i b s).opc = s.opc := rfl
@[simp] theorem bitWrite_result (i : Nat) (b : Bool) (s : State) : (bitWrite i b s).result = s.result := rfl
@[simp] theorem bitWrite_ahave (i : Nat) (b : Bool) (s : State) : (bitWrite i b s).ahave = s.ahave := rfl
@[simp] theorem bitWrite_aval (i : Nat) (b : Bool) (s : State) : (bitWrite i b s).aval = s.aval := rfl
@[simp] theorem bitWrite_asince (i : Nat) (b : Bool) (s : State) : (bitWrite i b s).asince = s.asince := rfl
@[simp] theorem bitWrite_aidx (i : Nat) (b : Bool) (s : State) : (bitWrite i b s).aidx = s.aidx := rfl
@[simp] theorem bitWrite_latch (i : Nat) (b : Bool) (s : State) : (bitWrite i b s).latch = s.latch := rfl
@[simp] theorem bitWrite_bitbuf (i : Nat) (b : Bool) (s : State) : (bitWrite i b s).bitbuf = cellsSet i b s.bitbuf := rfl
@[simp] theorem bitWrite_outbuf (i : Nat) (b : Bool) (s : State) : (bitWrite i b s).outbuf = s.outbuf := rfl
@[simp] theorem bitWrite_params (i : Nat) (b : Bool) (s : State) : (bitWrite i b s).params = s.params := rfl
@[simp] theorem bitWrite_irqSetNow (i : Nat) (b : Bool) (s : State) : (bitWrite i b s).irqSetNow = s.irqSetNow := rfl
@[simp] theorem bitWrite_draws (i : Nat) (b : Bool) (s : State) : (bitWrite i b s).draws = s.draws := rfl
@[simp] theorem bitWrite_source (i : Nat) (b : Bool) (s : State) : (bitWrite i b s).source = s.source := rfl
@[simp] theorem bitWrite_inputs (i : Nat) (b : Bool) (s : State) : (bitWrite i b s).inputs = s.inputs := rfl
@[simp] theorem bitWrite_streamB (i : Nat) (b : Bool) (s : State) : (bitWrite i b s).streamB = s.streamB := rfl
@[simp] theorem bitWrite_streamA (i : Nat) (b : Bool) (s : State) : (bitWrite i b s).streamA = s.streamA := rfl
@[simp] theorem bitWrite_reads (i : Nat) (b : Bool) (s : State) : (bitWrite i b s).reads = s.reads := rfl

@[simp] theorem outWrite_dstate (i : Nat) (b : Byte) (s : State) : (outWrite i b s).dstate = s.dstate := rfl
@[simp] theorem outWrite_busy (i : Nat) (b : Byte) (s : State) : (outWrite i b s).busy = s.busy := rfl
@[simp] theorem outWrite_done (i : Nat) (b : Byte) (s : State) : (outWrite i b s).done = s.done := rfl
@[simp] theorem outWrite_term (i : Nat) (b : Byte) (s : State) : (outWrite i b s).term = s.term := rfl
@[simp] theorem outWrite_ovf (i : Nat) (b : Byte) (s : State) : (outWrite i b s).ovf = s.ovf := rfl
@[simp] theorem outWrite_found (i : Nat) (b : Byte) (s : State) : (outWrite i b s).found = s.found := rfl
@[simp] theorem outWrite_err (i : Nat) (b : Byte) (s : State) : (outWrite i b s).err = s.err := rfl
@[simp] theorem outWrite_irqStatus (i : Nat) (b : Byte) (s : State) : (outWrite i b s).irqStatus = s.irqStatus := rfl
@[simp] theorem outWrite_irqEnable (i : Nat) (b : Byte) (s : State) : (outWrite i b s).irqEnable = s.irqEnable := rfl
@[simp] theorem outWrite_alignEn (i : Nat) (b : Byte) (s : State) : (outWrite i b s).alignEn = s.alignEn := rfl
@[simp] theorem outWrite_edgeThr (i : Nat) (b : Byte) (s : State) : (outWrite i b s).edgeThr = s.edgeThr := rfl
@[simp] theorem outWrite_gapThr (i : Nat) (b : Byte) (s : State) : (outWrite i b s).gapThr = s.gapThr := rfl
@[simp] theorem outWrite_tcnt (i : Nat) (b : Byte) (s : State) : (outWrite i b s).tcnt = s.tcnt := rfl
@[simp] theorem outWrite_gapcnt (i : Nat) (b : Byte) (s : State) : (outWrite i b s).gapcnt = s.gapcnt := rfl
@[simp] theorem outWrite_lastpol (i : Nat) (b : Byte) (s : State) : (outWrite i b s).lastpol = s.lastpol := rfl
@[simp] theorem outWrite_bitcnt (i : Nat) (b : Byte) (s : State) : (outWrite i b s).bitcnt = s.bitcnt := rfl
@[simp] theorem outWrite_sidx (i : Nat) (b : Byte) (s : State) : (outWrite i b s).sidx = s.sidx := rfl
@[simp] theorem outWrite_frameOffset (i : Nat) (b : Byte) (s : State) : (outWrite i b s).frameOffset = s.frameOffset := rfl
@[simp] theorem outWrite_src (i : Nat) (b : Byte) (s : State) : (outWrite i b s).src = s.src := rfl
@[simp] theorem outWrite_len (i : Nat) (b : Byte) (s : State) : (outWrite i b s).len = s.len := rfl
@[simp] theorem outWrite_dst (i : Nat) (b : Byte) (s : State) : (outWrite i b s).dst = s.dst := rfl
@[simp] theorem outWrite_outlen (i : Nat) (b : Byte) (s : State) : (outWrite i b s).outlen = s.outlen := rfl
@[simp] theorem outWrite_opa (i : Nat) (b : Byte) (s : State) : (outWrite i b s).opa = s.opa := rfl
@[simp] theorem outWrite_opb (i : Nat) (b : Byte) (s : State) : (outWrite i b s).opb = s.opb := rfl
@[simp] theorem outWrite_opc (i : Nat) (b : Byte) (s : State) : (outWrite i b s).opc = s.opc := rfl
@[simp] theorem outWrite_result (i : Nat) (b : Byte) (s : State) : (outWrite i b s).result = s.result := rfl
@[simp] theorem outWrite_ahave (i : Nat) (b : Byte) (s : State) : (outWrite i b s).ahave = s.ahave := rfl
@[simp] theorem outWrite_aval (i : Nat) (b : Byte) (s : State) : (outWrite i b s).aval = s.aval := rfl
@[simp] theorem outWrite_asince (i : Nat) (b : Byte) (s : State) : (outWrite i b s).asince = s.asince := rfl
@[simp] theorem outWrite_aidx (i : Nat) (b : Byte) (s : State) : (outWrite i b s).aidx = s.aidx := rfl
@[simp] theorem outWrite_latch (i : Nat) (b : Byte) (s : State) : (outWrite i b s).latch = s.latch := rfl
@[simp] theorem outWrite_bitbuf (i : Nat) (b : Byte) (s : State) : (outWrite i b s).bitbuf = s.bitbuf := rfl
@[simp] theorem outWrite_outbuf (i : Nat) (b : Byte) (s : State) : (outWrite i b s).outbuf = cellsSet i b s.outbuf := rfl
@[simp] theorem outWrite_params (i : Nat) (b : Byte) (s : State) : (outWrite i b s).params = s.params := rfl
@[simp] theorem outWrite_irqSetNow (i : Nat) (b : Byte) (s : State) : (outWrite i b s).irqSetNow = s.irqSetNow := rfl
@[simp] theorem outWrite_draws (i : Nat) (b : Byte) (s : State) : (outWrite i b s).draws = s.draws := rfl
@[simp] theorem outWrite_source (i : Nat) (b : Byte) (s : State) : (outWrite i b s).source = s.source := rfl
@[simp] theorem outWrite_inputs (i : Nat) (b : Byte) (s : State) : (outWrite i b s).inputs = s.inputs := rfl
@[simp] theorem outWrite_streamB (i : Nat) (b : Byte) (s : State) : (outWrite i b s).streamB = s.streamB := rfl
@[simp] theorem outWrite_streamA (i : Nat) (b : Byte) (s : State) : (outWrite i b s).streamA = s.streamA := rfl
@[simp] theorem outWrite_reads (i : Nat) (b : Byte) (s : State) : (outWrite i b s).reads = s.reads := rfl

/-- A run of OUTBUF writes changes no field but OUTBUF. -/
theorem outWriteAll_eq (i : Nat) (bs : List Byte) (s : State) :
    outWriteAll i bs s = { s with outbuf := (outWriteAll i bs s).outbuf } := by
  induction bs generalizing i s with
  | nil => rfl
  | cons b rest ih => exact ih (i + 1) (outWrite i b s)

@[simp] theorem outWriteAll_dstate (i : Nat) (bs : List Byte) (s : State) : (outWriteAll i bs s).dstate = s.dstate := by
  rw [outWriteAll_eq]
@[simp] theorem outWriteAll_busy (i : Nat) (bs : List Byte) (s : State) : (outWriteAll i bs s).busy = s.busy := by
  rw [outWriteAll_eq]
@[simp] theorem outWriteAll_done (i : Nat) (bs : List Byte) (s : State) : (outWriteAll i bs s).done = s.done := by
  rw [outWriteAll_eq]
@[simp] theorem outWriteAll_term (i : Nat) (bs : List Byte) (s : State) : (outWriteAll i bs s).term = s.term := by
  rw [outWriteAll_eq]
@[simp] theorem outWriteAll_ovf (i : Nat) (bs : List Byte) (s : State) : (outWriteAll i bs s).ovf = s.ovf := by
  rw [outWriteAll_eq]
@[simp] theorem outWriteAll_found (i : Nat) (bs : List Byte) (s : State) : (outWriteAll i bs s).found = s.found := by
  rw [outWriteAll_eq]
@[simp] theorem outWriteAll_err (i : Nat) (bs : List Byte) (s : State) : (outWriteAll i bs s).err = s.err := by
  rw [outWriteAll_eq]
@[simp] theorem outWriteAll_irqStatus (i : Nat) (bs : List Byte) (s : State) : (outWriteAll i bs s).irqStatus = s.irqStatus := by
  rw [outWriteAll_eq]
@[simp] theorem outWriteAll_irqEnable (i : Nat) (bs : List Byte) (s : State) : (outWriteAll i bs s).irqEnable = s.irqEnable := by
  rw [outWriteAll_eq]
@[simp] theorem outWriteAll_alignEn (i : Nat) (bs : List Byte) (s : State) : (outWriteAll i bs s).alignEn = s.alignEn := by
  rw [outWriteAll_eq]
@[simp] theorem outWriteAll_edgeThr (i : Nat) (bs : List Byte) (s : State) : (outWriteAll i bs s).edgeThr = s.edgeThr := by
  rw [outWriteAll_eq]
@[simp] theorem outWriteAll_gapThr (i : Nat) (bs : List Byte) (s : State) : (outWriteAll i bs s).gapThr = s.gapThr := by
  rw [outWriteAll_eq]
@[simp] theorem outWriteAll_tcnt (i : Nat) (bs : List Byte) (s : State) : (outWriteAll i bs s).tcnt = s.tcnt := by
  rw [outWriteAll_eq]
@[simp] theorem outWriteAll_gapcnt (i : Nat) (bs : List Byte) (s : State) : (outWriteAll i bs s).gapcnt = s.gapcnt := by
  rw [outWriteAll_eq]
@[simp] theorem outWriteAll_lastpol (i : Nat) (bs : List Byte) (s : State) : (outWriteAll i bs s).lastpol = s.lastpol := by
  rw [outWriteAll_eq]
@[simp] theorem outWriteAll_bitcnt (i : Nat) (bs : List Byte) (s : State) : (outWriteAll i bs s).bitcnt = s.bitcnt := by
  rw [outWriteAll_eq]
@[simp] theorem outWriteAll_sidx (i : Nat) (bs : List Byte) (s : State) : (outWriteAll i bs s).sidx = s.sidx := by
  rw [outWriteAll_eq]
@[simp] theorem outWriteAll_frameOffset (i : Nat) (bs : List Byte) (s : State) : (outWriteAll i bs s).frameOffset = s.frameOffset := by
  rw [outWriteAll_eq]
@[simp] theorem outWriteAll_src (i : Nat) (bs : List Byte) (s : State) : (outWriteAll i bs s).src = s.src := by
  rw [outWriteAll_eq]
@[simp] theorem outWriteAll_len (i : Nat) (bs : List Byte) (s : State) : (outWriteAll i bs s).len = s.len := by
  rw [outWriteAll_eq]
@[simp] theorem outWriteAll_dst (i : Nat) (bs : List Byte) (s : State) : (outWriteAll i bs s).dst = s.dst := by
  rw [outWriteAll_eq]
@[simp] theorem outWriteAll_outlen (i : Nat) (bs : List Byte) (s : State) : (outWriteAll i bs s).outlen = s.outlen := by
  rw [outWriteAll_eq]
@[simp] theorem outWriteAll_opa (i : Nat) (bs : List Byte) (s : State) : (outWriteAll i bs s).opa = s.opa := by
  rw [outWriteAll_eq]
@[simp] theorem outWriteAll_opb (i : Nat) (bs : List Byte) (s : State) : (outWriteAll i bs s).opb = s.opb := by
  rw [outWriteAll_eq]
@[simp] theorem outWriteAll_opc (i : Nat) (bs : List Byte) (s : State) : (outWriteAll i bs s).opc = s.opc := by
  rw [outWriteAll_eq]
@[simp] theorem outWriteAll_result (i : Nat) (bs : List Byte) (s : State) : (outWriteAll i bs s).result = s.result := by
  rw [outWriteAll_eq]
@[simp] theorem outWriteAll_ahave (i : Nat) (bs : List Byte) (s : State) : (outWriteAll i bs s).ahave = s.ahave := by
  rw [outWriteAll_eq]
@[simp] theorem outWriteAll_aval (i : Nat) (bs : List Byte) (s : State) : (outWriteAll i bs s).aval = s.aval := by
  rw [outWriteAll_eq]
@[simp] theorem outWriteAll_asince (i : Nat) (bs : List Byte) (s : State) : (outWriteAll i bs s).asince = s.asince := by
  rw [outWriteAll_eq]
@[simp] theorem outWriteAll_aidx (i : Nat) (bs : List Byte) (s : State) : (outWriteAll i bs s).aidx = s.aidx := by
  rw [outWriteAll_eq]
@[simp] theorem outWriteAll_latch (i : Nat) (bs : List Byte) (s : State) : (outWriteAll i bs s).latch = s.latch := by
  rw [outWriteAll_eq]
@[simp] theorem outWriteAll_bitbuf (i : Nat) (bs : List Byte) (s : State) : (outWriteAll i bs s).bitbuf = s.bitbuf := by
  rw [outWriteAll_eq]
@[simp] theorem outWriteAll_params (i : Nat) (bs : List Byte) (s : State) : (outWriteAll i bs s).params = s.params := by
  rw [outWriteAll_eq]
@[simp] theorem outWriteAll_irqSetNow (i : Nat) (bs : List Byte) (s : State) : (outWriteAll i bs s).irqSetNow = s.irqSetNow := by
  rw [outWriteAll_eq]
@[simp] theorem outWriteAll_draws (i : Nat) (bs : List Byte) (s : State) : (outWriteAll i bs s).draws = s.draws := by
  rw [outWriteAll_eq]
@[simp] theorem outWriteAll_source (i : Nat) (bs : List Byte) (s : State) : (outWriteAll i bs s).source = s.source := by
  rw [outWriteAll_eq]
@[simp] theorem outWriteAll_inputs (i : Nat) (bs : List Byte) (s : State) : (outWriteAll i bs s).inputs = s.inputs := by
  rw [outWriteAll_eq]
@[simp] theorem outWriteAll_streamB (i : Nat) (bs : List Byte) (s : State) : (outWriteAll i bs s).streamB = s.streamB := by
  rw [outWriteAll_eq]
@[simp] theorem outWriteAll_streamA (i : Nat) (bs : List Byte) (s : State) : (outWriteAll i bs s).streamA = s.streamA := by
  rw [outWriteAll_eq]
@[simp] theorem outWriteAll_reads (i : Nat) (bs : List Byte) (s : State) : (outWriteAll i bs s).reads = s.reads := by
  rw [outWriteAll_eq]

end Sys2Proof.Machine
end

