-- ==== Sys2Proof/Laws/Cells.lean ====
section
/-! SUPPORT. The laws of indexed cells: a read after a write, the canonical form, and the same for BITBUF, OUTBUF and runs of OUTBUF writes. -/

namespace Sys2Proof.Machine

variable {α : Type}

/-- A read of the cell just written gives the value written. -/
@[simp] theorem cellsGet_set_same (a : Nat) (v : α) (cs : List (Nat × α)) : cellsGet a (cellsSet a v cs) = some v := by
  induction cs with
  | nil => simp [cellsSet, cellsGet]
  | cons c rest ih =>
    obtain ⟨b, w⟩ := c
    simp only [cellsSet]
    split
    · simp [cellsGet]
    · split
      · simp [cellsGet]
      · rename_i h; simp [cellsGet, h, ih]

/-- A write leaves every other cell alone. -/
theorem cellsGet_set_other (a b : Nat) (v : α) (cs : List (Nat × α)) (h : b ≠ a) :
    cellsGet b (cellsSet a v cs) = cellsGet b cs := by
  induction cs with
  | nil => simp [cellsSet, cellsGet, h]
  | cons c rest ih =>
    obtain ⟨d, w⟩ := c
    simp only [cellsSet]
    split
    · simp [cellsGet, h]
    · split
      · rename_i _ hd; subst hd; simp [cellsGet, h]
      · simp [cellsGet, ih]

theorem cellsGet_set (a b : Nat) (v : α) (cs : List (Nat × α)) :
    cellsGet b (cellsSet a v cs) = if b = a then some v else cellsGet b cs := by
  split
  · rename_i h; subst h; simp
  · rename_i h; exact cellsGet_set_other a b v cs h

/-- A write keeps the canonical form, above any bound the index respects. -/
theorem cellsSet_rising (lo a : Nat) (v : α) (cs : List (Nat × α)) (hlo : lo ≤ a)
    (h : cellsRisingFrom lo cs = true) : cellsRisingFrom lo (cellsSet a v cs) = true := by
  induction cs generalizing lo with
  | nil => simp [cellsSet, cellsRisingFrom, hlo]
  | cons c rest ih =>
    obtain ⟨b, w⟩ := c
    simp only [cellsRisingFrom, Bool.and_eq_true, decide_eq_true_eq] at h
    simp only [cellsSet]
    split
    · simp only [cellsRisingFrom, Bool.and_eq_true, decide_eq_true_eq]
      exact ⟨hlo, by omega, h.2⟩
    · split
      · rename_i _ hab; subst hab
        simp only [cellsRisingFrom, Bool.and_eq_true, decide_eq_true_eq]
        exact ⟨hlo, h.2⟩
      · simp only [cellsRisingFrom, Bool.and_eq_true, decide_eq_true_eq]
        exact ⟨h.1, ih (b + 1) (by omega) h.2⟩

/-- A write adds no index but its own. -/
theorem cellsSet_index (a : Nat) (v : α) (cs : List (Nat × α)) (c : Nat × α) (h : c ∈ cellsSet a v cs) :
    c.1 = a ∨ c ∈ cs := by
  induction cs with
  | nil => simp [cellsSet] at h; simp [h]
  | cons d rest ih =>
    obtain ⟨b, w⟩ := d
    simp only [cellsSet] at h
    split at h
    · simp only [List.mem_cons] at h
      rcases h with h | h | h
      · exact .inl (by simp [h])
      · exact .inr (by simp [h])
      · exact .inr (by simp [h])
    · split at h
      · simp only [List.mem_cons] at h
        rcases h with h | h
        · exact .inl (by simp [h])
        · exact .inr (by simp [h])
      · simp only [List.mem_cons] at h
        rcases h with h | h
        · exact .inr (by simp [h])
        · rcases ih h with h | h
          · exact .inl h
          · exact .inr (by simp [h])

/-- A write within a bound keeps every index within it. -/
theorem cellsSet_bounded (n a : Nat) (v : α) (cs : List (Nat × α)) (ha : a < n) (h : ∀ c ∈ cs, c.1 < n) :
    ∀ c ∈ cellsSet a v cs, c.1 < n := by
  intro c hc
  rcases cellsSet_index a v cs c hc with h1 | h1
  · omega
  · exact h c h1

/-- `OutWrite` keeps the canonical form of OUTBUF. -/
theorem outWrite_wf (i : Nat) (b : Byte) (s : State) (h : Memory.wf s.outbuf = true) :
    Memory.wf (outWrite i b s).outbuf = true :=
  cellsSet_rising 0 i b s.outbuf (Nat.zero_le i) h

/-- A run of OUTBUF writes keeps the canonical form of OUTBUF. -/
theorem outWriteAll_wf (i : Nat) (bs : List Byte) (s : State) (h : Memory.wf s.outbuf = true) :
    Memory.wf (outWriteAll i bs s).outbuf = true := by
  induction bs generalizing i s with
  | nil => exact h
  | cons b rest ih => exact ih (i + 1) (outWrite i b s) (outWrite_wf i b s h)

/-- A run of OUTBUF writes within a bound keeps every index within it. -/
theorem outWriteAll_bounded (n i : Nat) (bs : List Byte) (s : State) (hi : i + bs.length ≤ n)
    (h : ∀ c ∈ s.outbuf, c.1 < n) : ∀ c ∈ (outWriteAll i bs s).outbuf, c.1 < n := by
  induction bs generalizing i s with
  | nil => exact h
  | cons b rest ih =>
    simp only [List.length_cons] at hi
    exact ih (i + 1) (outWrite i b s) (by omega) (cellsSet_bounded n i b s.outbuf (by omega) h)

/-- `BitWrite` keeps the canonical form of BITBUF. -/
theorem bitWrite_wf (i : Nat) (b : Bool) (s : State) (h : bitCellsWf s.bitbuf = true) :
    bitCellsWf (bitWrite i b s).bitbuf = true :=
  cellsSet_rising 0 i b s.bitbuf (Nat.zero_le i) h

/-- Reset's buffers are canonical. -/
theorem reset_wf : Memory.wf State.reset.outbuf = true ∧ bitCellsWf State.reset.bitbuf = true := ⟨rfl, rfl⟩

/-- What an OUTBUF byte is after a run of writes: the byte written there, or what it was. -/
theorem outRead_outWriteAll (i : Nat) (bs : List Byte) (s : State) (a : Nat) :
    outRead (outWriteAll i bs s) a = if i ≤ a ∧ a < i + bs.length then bs[a - i]? else outRead s a := by
  induction bs generalizing i s with
  | nil =>
    have h : ¬ (i ≤ a ∧ a < i + ([] : List Byte).length) := by simp only [List.length_nil]; omega
    rw [if_neg h]; rfl
  | cons b rest ih =>
    simp only [outWriteAll, ih, List.length_cons]
    by_cases h1 : i + 1 ≤ a ∧ a < i + 1 + rest.length
    · have h2 : i ≤ a ∧ a < i + (rest.length + 1) := by omega
      have h3 : a - i = (a - (i + 1)) + 1 := by omega
      simp [h1, h2, h3]
    · simp only [h1, if_false]
      by_cases h2 : a = i
      · subst h2; simp [outRead, outWrite]
      · have h3 : ¬ (i ≤ a ∧ a < i + (rest.length + 1)) := by omega
        simp only [h3, if_false]
        exact cellsGet_set_other i a b s.outbuf h2

/-- What a BITBUF bit is after a write. -/
theorem bitRead_bitWrite (i : Nat) (b : Bool) (s : State) (a : Nat) :
    bitRead (bitWrite i b s) a = if a = i then b else bitRead s a := by
  simp only [bitRead, bitWrite, cellsGet_set]
  split <;> rfl

end Sys2Proof.Machine
end

