-- ==== Sys2Proof/Laws/Commands.lean ====
section
/-! SUPPORT. What the shared operations of commands can do, once each: storing into OUTBUF, taking the source octets, locating, executing a command, completing a latched one. -/

namespace Sys2Proof.Machine

/-- `storeOut` either reports RANGE or stores all its bytes within OUTBUF. -/
theorem storeOut_cases (bytes : List Byte) (s : State) :
    (s.params.outbufDepth < s.latch.dst.toNat + bytes.length ∧ storeOut bytes s = complete .range s) ∨
    (s.latch.dst.toNat + bytes.length ≤ s.params.outbufDepth ∧
      storeOut bytes s =
        complete .ok { outWriteAll s.latch.dst.toNat bytes s with outlen := BitVec.ofNat 32 bytes.length }) := by
  unfold storeOut
  split
  · rename_i h; exact .inl ⟨h, rfl⟩
  · rename_i h; exact .inr ⟨by omega, rfl⟩

/-- `SrcOctets` either reports MALFORMED, or RANGE, or gives `len / 8` octets of a range within the BitString. -/
theorem srcOctets_cases (src len : Word) (r : Bool) (s : State) :
    (len.toNat % 8 ≠ 0 ∧ srcOctets src len r s = .error .malformed) ∨
    (len.toNat % 8 = 0 ∧ bitLen s < src.toNat + len.toNat ∧ srcOctets src len r s = .error .range) ∨
    (len.toNat % 8 = 0 ∧ src.toNat + len.toNat ≤ bitLen s ∧
      srcOctets src len r s =
        .ok ((List.range (len.toNat / 8)).map (fun i => maybeReverse r (octet s (src.toNat + 8 * i))))) := by
  unfold srcOctets
  split
  · rename_i h; exact .inl ⟨h, rfl⟩
  · rename_i h
    split
    · rename_i h2; exact .inr (.inl ⟨by omega, h2, rfl⟩)
    · rename_i h2; exact .inr (.inr ⟨by omega, by omega, rfl⟩)

/-- A successful completion as one update (60 R236). -/
theorem complete_ok (s : State) :
    complete .ok s =
      { s with err := .ok, irqStatus := s.irqStatus ||| 0b00100#5, irqSetNow := s.irqSetNow ||| 0b00100#5 } := rfl

/-- A failed completion as one update (60 R236). -/
theorem complete_error (c : ErrCode) (s : State) (h : c ≠ .ok) :
    complete c s =
      { s with err := c, irqStatus := s.irqStatus ||| 0b01100#5, irqSetNow := s.irqSetNow ||| 0b01100#5 } := by
  cases c <;> first | rfl | exact absurd rfl h

/-- DECODE by its one check (42 R153). -/
theorem execDecode_eq (s : State) :
    execDecode s =
      if s.dstate = .idle then .next (complete .ok { clearCapture s with dstate := .run })
      else .next (complete .conflict s) := by
  unfold execDecode
  split <;> simp [*]

/-- LOCATE by its one check (44 R190). -/
theorem execLocate_eq (s : State) :
    execLocate s =
      if s.dstate = .run then .next (complete .conflict s)
      else match firstMatch s with
        | some k => .next (complete .ok { s with found := true, frameOffset := BitVec.ofNat 32 (k + Config.patternLen) })
        | none => .next (complete .notFound { s with found := false, frameOffset := Config.noIndex }) := by
  unfold execLocate
  cases s.dstate <;> rfl

/-- The search of LOCATE succeeds at the leftmost match within the latched length (44 R190, R191). -/
theorem firstMatch_eq_some {s : State} {k : Nat} :
    firstMatch s = some k ↔
      k + 48 ≤ s.latch.bitlen ∧ patternAt s k = true ∧ ∀ j, j < k → patternAt s j = false := by
  rw [firstMatch, List.find?_range_eq_some, List.mem_range, Config.patternLen]
  constructor
  · rintro ⟨hp, hk, hj⟩
    exact ⟨by omega, hp, fun j h => by simpa using hj j h⟩
  · rintro ⟨hk, hp, hj⟩
    exact ⟨hp, by omega, fun j h => by simpa using hj j h⟩

/-- The search of LOCATE fails when the pattern stands nowhere within the latched length (44 R190, R192). -/
theorem firstMatch_eq_none {s : State} :
    firstMatch s = none ↔ ∀ k, k + 48 ≤ s.latch.bitlen → patternAt s k = false := by
  rw [firstMatch, List.find?_eq_none, Config.patternLen]
  constructor
  · intro h k hk
    simpa using h k (List.mem_range.mpr (by omega))
  · intro h k hk
    rw [List.mem_range] at hk
    simpa using h k (by omega)

/-- CHUNK by its first check (45 R201). -/
theorem execChunk_eq (r : Bool) (s : State) :
    execChunk r s =
      if s.dstate = .run then .next (complete .conflict s)
      else match srcOctets s.latch.src s.latch.len r s with
        | .error code => .next (complete code s)
        | .ok octets => .next (storeOut octets s) := by
  unfold execChunk
  cases s.dstate <;> rfl

/-- ADDR by its first check (45 R205). -/
theorem execAddr_eq (r : Bool) (pad : Nat) (s : State) :
    execAddr r pad s =
      if s.dstate = .run then .next (complete .conflict s)
      else match srcOctets s.latch.src s.latch.len r s with
        | .error code => .next (complete code s)
        | .ok octets => .next (storeOut (addrText pad octets) s) := by
  unfold execAddr
  cases s.dstate <;> rfl

/-- Everything a command can leave when it runs (60 R236, `Execute`). -/
inductive ExecResult (i : Instr) (s : State) : State → Prop
  /-- it only reports -/
  | reported (c : ErrCode) : ExecResult i s (complete c s)
  /-- CLEAR -/
  | cleared (hi : i = .clear) :
      ExecResult i s (complete .ok { clearCapture s with dstate := .idle, outlen := 0, result := 0 })
  /-- DECODE in IDLE -/
  | started (hi : i = .decode) (hd : s.dstate = .idle) :
      ExecResult i s (complete .ok { clearCapture s with dstate := .run })
  /-- SIGN, CLAMP, EDGE, REVB -/
  | computed (v : Word) (hi : i = .sign ∨ i = .clamp ∨ i = .edge ∨ i = .revb) :
      ExecResult i s (complete .ok { s with result := v })
  /-- LOCATE with a match -/
  | located (k : Nat) (hi : i = .locate) (hd : s.dstate ≠ .run) (hk : firstMatch s = some k) :
      ExecResult i s (complete .ok { s with found := true, frameOffset := BitVec.ofNat 32 (k + Config.patternLen) })
  /-- LOCATE without a match -/
  | notLocated (hi : i = .locate) (hd : s.dstate ≠ .run) (hk : firstMatch s = none) :
      ExecResult i s (complete .notFound { s with found := false, frameOffset := Config.noIndex })
  /-- CHUNK, HEXB, ADDR -/
  | stored (bytes : List Byte) (hi : i.isMultiCycle = true)
      (hfit : s.latch.dst.toNat + bytes.length ≤ s.params.outbufDepth) :
      ExecResult i s
        (complete .ok { outWriteAll s.latch.dst.toNat bytes s with outlen := BitVec.ofNat 32 bytes.length })

/-- `storeOut` is one of the results of a command that stores. -/
theorem storeOut_result (i : Instr) (hi : i.isMultiCycle = true) (bytes : List Byte) (s : State) :
    ExecResult i s (storeOut bytes s) := by
  rcases storeOut_cases bytes s with ⟨_, h⟩ | ⟨hfit, h⟩
  · rw [h]; exact .reported _
  · rw [h]; exact .stored bytes hi hfit

/-- Every command answers a next state, one of the results above. -/
theorem exec_result (i : Instr) (s : State) : ∃ t, exec i s = .next t ∧ ExecResult i s t := by
  cases i with
  | nop => exact ⟨_, rfl, .reported _⟩
  | clear => exact ⟨_, rfl, .cleared rfl⟩
  | decode =>
    simp only [exec, execDecode]
    split
    · rename_i hd; exact ⟨_, rfl, .started rfl hd⟩
    · exact ⟨_, rfl, .reported _⟩
    · exact ⟨_, rfl, .reported _⟩
  | sign => exact ⟨_, rfl, .computed _ (.inl rfl)⟩
  | clamp =>
    simp only [exec, execClamp]
    split
    · exact ⟨_, rfl, .reported _⟩
    · exact ⟨_, rfl, .computed _ (.inr (.inl rfl))⟩
  | edge => exact ⟨_, rfl, .computed _ (.inr (.inr (.inl rfl)))⟩
  | revb => exact ⟨_, rfl, .computed _ (.inr (.inr (.inr rfl)))⟩
  | locate =>
    simp only [exec, execLocate]
    split
    · exact ⟨_, rfl, .reported _⟩
    all_goals
      rename_i hd
      split
      · rename_i k hk; exact ⟨_, rfl, .located k rfl (by simp [hd]) hk⟩
      · rename_i hk; exact ⟨_, rfl, .notLocated rfl (by simp [hd]) hk⟩
  | chunk r =>
    simp only [exec, execChunk]
    split
    · exact ⟨_, rfl, .reported _⟩
    all_goals
      split
      · exact ⟨_, rfl, .reported _⟩
      · exact ⟨_, rfl, storeOut_result _ rfl _ _⟩
  | hexb pad => exact ⟨_, rfl, storeOut_result _ rfl _ _⟩
  | addr r pad =>
    simp only [exec, execAddr]
    split
    · exact ⟨_, rfl, .reported _⟩
    all_goals
      split
      · exact ⟨_, rfl, .reported _⟩
      · exact ⟨_, rfl, storeOut_result _ rfl _ _⟩

/-- What a command that answered a next state has left. -/
theorem exec_cases {i : Instr} {s t : State} (h : exec i s = .next t) : ExecResult i s t := by
  obtain ⟨u, hu, hr⟩ := exec_result i s
  rw [hu] at h
  cases h
  exact hr

/-- The completion of the latched command: nothing while `BUSY` = 0, else the command and `BUSY` back to 0 (60 R236). -/
theorem completionEvent_cases {s t : State} (h : completionEvent s = .next t) :
    (s.busy = false ∧ t = s) ∨
    (s.busy = true ∧ ∃ i u, latchedInstr s.latch = some i ∧ exec i s = .next u ∧ t = { u with busy := false }) := by
  unfold completionEvent at h
  cases hb : s.busy with
  | false => rw [hb] at h; cases h; exact .inl ⟨rfl, rfl⟩
  | true =>
    rw [hb] at h
    simp only [if_true] at h
    cases hl : latchedInstr s.latch with
    | none => rw [hl] at h; cases h
    | some i =>
      rw [hl] at h
      simp only [andThen] at h
      cases he : exec i s with
      | next u => rw [he] at h; cases h; exact .inr ⟨rfl, i, u, rfl, he, rfl⟩
      | fault r => rw [he] at h; cases h
      | refused r => rw [he] at h; cases h

/-- What the issue of a command word can leave (60 R236, R237). -/
theorem issue_cases {w : Word} {s t : State} (h : issue w s = .next t) :
    (s.busy = true ∧ t = raiseIrq irqDrop s) ∨
    (s.busy = false ∧ (∃ e, decodeWord w = .error e) ∧ t = complete .badCmd { s with latch := loadLatch w s }) ∨
    (s.busy = false ∧ ∃ i, decodeWord w = .ok i ∧ i.isMultiCycle = true ∧
      t = { s with latch := loadLatch w s, busy := true }) ∨
    (s.busy = false ∧ ∃ i, decodeWord w = .ok i ∧ i.isMultiCycle = false ∧
      exec i { s with latch := loadLatch w s } = .next t) := by
  unfold issue at h
  split at h
  · rename_i hb; cases h; exact .inl ⟨hb, rfl⟩
  · rename_i hb
    have hb' : s.busy = false := by simpa using hb
    split at h
    · rename_i e he; cases h; exact .inr (.inl ⟨hb', ⟨e, he⟩, rfl⟩)
    · rename_i i hi
      split at h
      · rename_i hm; cases h; exact .inr (.inr (.inl ⟨hb', i, hi, hm, rfl⟩))
      · rename_i hm; exact .inr (.inr (.inr ⟨hb', i, hi, by simpa using hm, h⟩))

end Sys2Proof.Machine
end

