-- ==== Sys2Proof/Laws/Decoder.lean ====
section
/-! SUPPORT. The accepted beat: its three ways through RUN, and the pieces of its end (42 R156, 43 R181). -/

namespace Sys2Proof.Machine

/-- The step of a beat that terminates (42 R158). -/
theorem runStep_terminates (b : Beat) (s : State) (h : terminates (advanceCounts s) = true) :
    runStep b s = finishBeat none b (terminate (advanceCounts s)) := by
  simp only [runStep, h, if_true]

/-- The step of a beat that commits a bit (42 R159, R160). -/
theorem runStep_commits (b : Beat) (s : State) (h : terminates (advanceCounts s) = false)
    (hq : qualifies (beatPolarity s.params b) (advanceCounts s) = true) :
    runStep b s = finishBeat (some (bitOf (beatPolarity s.params b), s.bitcnt)) b
      { commit (beatPolarity s.params b) b (advanceCounts s) with lastpol := beatPolarity s.params b } := by
  simp only [runStep, h, hq, if_true, Bool.false_eq_true, if_false]
  rfl

/-- The step of a beat that neither terminates nor commits (42 R161). -/
theorem runStep_passes (b : Beat) (s : State) (h : terminates (advanceCounts s) = false)
    (hq : qualifies (beatPolarity s.params b) (advanceCounts s) = false) :
    runStep b s = finishBeat none b { advanceCounts s with lastpol := beatPolarity s.params b } := by
  simp only [runStep, h, hq, Bool.false_eq_true, if_false]

/-- A beat in RUN terminates, commits or passes. -/
theorem runStep_cases (b : Beat) (s : State) :
    (terminates (advanceCounts s) = true ∧ runStep b s = finishBeat none b (terminate (advanceCounts s))) ∨
    (terminates (advanceCounts s) = false ∧ qualifies (beatPolarity s.params b) (advanceCounts s) = true ∧
      runStep b s = finishBeat (some (bitOf (beatPolarity s.params b), s.bitcnt)) b
        { commit (beatPolarity s.params b) b (advanceCounts s) with lastpol := beatPolarity s.params b }) ∨
    (terminates (advanceCounts s) = false ∧ qualifies (beatPolarity s.params b) (advanceCounts s) = false ∧
      runStep b s = finishBeat none b { advanceCounts s with lastpol := beatPolarity s.params b }) := by
  cases h : terminates (advanceCounts s) with
  | true => exact .inl ⟨rfl, runStep_terminates b s h⟩
  | false =>
    cases hq : qualifies (beatPolarity s.params b) (advanceCounts s) with
    | true => exact .inr (.inl ⟨rfl, rfl, runStep_commits b s h hq⟩)
    | false => exact .inr (.inr ⟨rfl, rfl, runStep_passes b s h hq⟩)

/-- The alignment update writes the four alignment registers and nothing else (43 R181). -/
theorem alignUpdate_eq (c : Option (Bool × Word)) (s : State) :
    alignUpdate c s =
      { s with
        ahave := c.isSome || s.ahave
        aidx := (c.map (fun x => x.2)).getD s.aidx
        aval := (c.map (fun x => x.1)).getD s.aval
        asince := if c.isSome then 0 else satSucc8 s.asince } := by
  cases c <;> simp [alignUpdate]

/-- The annotation beat, when there is one, is the only effect of `emitA` (43 R181, R184). -/
theorem emitA_eq (b : Beat) (s : State) :
    emitA b s = { s with streamA := if s.alignEn then annotation b s :: s.streamA else s.streamA } := by
  unfold emitA
  split <;> rfl

/-- The end of a capture as one update (42 R163). -/
theorem endCapture_eq (b : Beat) (s : State) :
    endCapture b s =
      { s with
        dstate := if b.last then .idle else s.dstate
        done := b.last || s.done
        irqStatus := if b.last then s.irqStatus ||| irqDecDone else s.irqStatus
        irqSetNow := if b.last then s.irqSetNow ||| irqDecDone else s.irqSetNow } := by
  unfold endCapture
  cases h : b.last <;> simp [raiseIrq]

/-- The end of an accepted beat as one update. -/
theorem finishBeat_eq (c : Option (Bool × Word)) (b : Beat) (s : State) :
    finishBeat c b s =
      { s with
        ahave := c.isSome || s.ahave
        aidx := (c.map (fun x => x.2)).getD s.aidx
        aval := (c.map (fun x => x.1)).getD s.aval
        asince := if c.isSome then 0 else satSucc8 s.asince
        streamA := if s.alignEn then annotation b (alignUpdate c s) :: s.streamA else s.streamA
        sidx := s.sidx + 1
        dstate := if b.last then .idle else s.dstate
        done := b.last || s.done
        irqStatus := if b.last then s.irqStatus ||| irqDecDone else s.irqStatus
        irqSetNow := if b.last then s.irqSetNow ||| irqDecDone else s.irqSetNow } := by
  simp only [finishBeat, alignStep, emitA_eq, endCapture_eq]
  rw [alignUpdate_eq]

/-- Storing a bit changes BITBUF, or `OVF`, and nothing else (42 R164). -/
theorem storeBit_eq (v : Bool) (s : State) :
    storeBit v s =
      { s with
        bitbuf := if s.bitcnt.toNat < s.params.bitbufDepth then cellsSet s.bitcnt.toNat v s.bitbuf else s.bitbuf
        ovf := if s.bitcnt.toNat < s.params.bitbufDepth then s.ovf else true } := by
  unfold storeBit
  split <;> simp [bitWrite, *]

/-- A commit as one update (42 R160, R164). -/
theorem commit_eq (p : Polarity) (b : Beat) (s : State) :
    commit p b s =
      { s with
        bitbuf := if s.bitcnt.toNat < s.params.bitbufDepth then cellsSet s.bitcnt.toNat (bitOf p) s.bitbuf else s.bitbuf
        ovf := if s.bitcnt.toNat < s.params.bitbufDepth then s.ovf else true
        tcnt := 0, gapcnt := 0, bitcnt := satSucc32 s.bitcnt, streamB := commitBeat p b s :: s.streamB } := by
  simp only [commit, storeBit_eq]

@[simp] theorem finishBeat_dstate (c : Option (Bool × Word)) (b : Beat) (s : State) :
    (finishBeat c b s).dstate = if b.last then .idle else s.dstate := by
  rw [finishBeat_eq]
@[simp] theorem finishBeat_busy (c : Option (Bool × Word)) (b : Beat) (s : State) :
    (finishBeat c b s).busy = s.busy := by
  rw [finishBeat_eq]
@[simp] theorem finishBeat_done (c : Option (Bool × Word)) (b : Beat) (s : State) :
    (finishBeat c b s).done = (b.last || s.done) := by
  rw [finishBeat_eq]
@[simp] theorem finishBeat_term (c : Option (Bool × Word)) (b : Beat) (s : State) :
    (finishBeat c b s).term = s.term := by
  rw [finishBeat_eq]
@[simp] theorem finishBeat_ovf (c : Option (Bool × Word)) (b : Beat) (s : State) :
    (finishBeat c b s).ovf = s.ovf := by
  rw [finishBeat_eq]
@[simp] theorem finishBeat_found (c : Option (Bool × Word)) (b : Beat) (s : State) :
    (finishBeat c b s).found = s.found := by
  rw [finishBeat_eq]
@[simp] theorem finishBeat_err (c : Option (Bool × Word)) (b : Beat) (s : State) :
    (finishBeat c b s).err = s.err := by
  rw [finishBeat_eq]
@[simp] theorem finishBeat_irqStatus (c : Option (Bool × Word)) (b : Beat) (s : State) :
    (finishBeat c b s).irqStatus = if b.last then s.irqStatus ||| irqDecDone else s.irqStatus := by
  rw [finishBeat_eq]
@[simp] theorem finishBeat_irqEnable (c : Option (Bool × Word)) (b : Beat) (s : State) :
    (finishBeat c b s).irqEnable = s.irqEnable := by
  rw [finishBeat_eq]
@[simp] theorem finishBeat_alignEn (c : Option (Bool × Word)) (b : Beat) (s : State) :
    (finishBeat c b s).alignEn = s.alignEn := by
  rw [finishBeat_eq]
@[simp] theorem finishBeat_edgeThr (c : Option (Bool × Word)) (b : Beat) (s : State) :
    (finishBeat c b s).edgeThr = s.edgeThr := by
  rw [finishBeat_eq]
@[simp] theorem finishBeat_gapThr (c : Option (Bool × Word)) (b : Beat) (s : State) :
    (finishBeat c b s).gapThr = s.gapThr := by
  rw [finishBeat_eq]
@[simp] theorem finishBeat_tcnt (c : Option (Bool × Word)) (b : Beat) (s : State) :
    (finishBeat c b s).tcnt = s.tcnt := by
  rw [finishBeat_eq]
@[simp] theorem finishBeat_gapcnt (c : Option (Bool × Word)) (b : Beat) (s : State) :
    (finishBeat c b s).gapcnt = s.gapcnt := by
  rw [finishBeat_eq]
@[simp] theorem finishBeat_lastpol (c : Option (Bool × Word)) (b : Beat) (s : State) :
    (finishBeat c b s).lastpol = s.lastpol := by
  rw [finishBeat_eq]
@[simp] theorem finishBeat_bitcnt (c : Option (Bool × Word)) (b : Beat) (s : State) :
    (finishBeat c b s).bitcnt = s.bitcnt := by
  rw [finishBeat_eq]
@[simp] theorem finishBeat_sidx (c : Option (Bool × Word)) (b : Beat) (s : State) :
    (finishBeat c b s).sidx = s.sidx + 1 := by
  rw [finishBeat_eq]
@[simp] theorem finishBeat_frameOffset (c : Option (Bool × Word)) (b : Beat) (s : State) :
    (finishBeat c b s).frameOffset = s.frameOffset := by
  rw [finishBeat_eq]
@[simp] theorem finishBeat_src (c : Option (Bool × Word)) (b : Beat) (s : State) :
    (finishBeat c b s).src = s.src := by
  rw [finishBeat_eq]
@[simp] theorem finishBeat_len (c : Option (Bool × Word)) (b : Beat) (s : State) :
    (finishBeat c b s).len = s.len := by
  rw [finishBeat_eq]
@[simp] theorem finishBeat_dst (c : Option (Bool × Word)) (b : Beat) (s : State) :
    (finishBeat c b s).dst = s.dst := by
  rw [finishBeat_eq]
@[simp] theorem finishBeat_outlen (c : Option (Bool × Word)) (b : Beat) (s : State) :
    (finishBeat c b s).outlen = s.outlen := by
  rw [finishBeat_eq]
@[simp] theorem finishBeat_opa (c : Option (Bool × Word)) (b : Beat) (s : State) :
    (finishBeat c b s).opa = s.opa := by
  rw [finishBeat_eq]
@[simp] theorem finishBeat_opb (c : Option (Bool × Word)) (b : Beat) (s : State) :
    (finishBeat c b s).opb = s.opb := by
  rw [finishBeat_eq]
@[simp] theorem finishBeat_opc (c : Option (Bool × Word)) (b : Beat) (s : State) :
    (finishBeat c b s).opc = s.opc := by
  rw [finishBeat_eq]
@[simp] theorem finishBeat_result (c : Option (Bool × Word)) (b : Beat) (s : State) :
    (finishBeat c b s).result = s.result := by
  rw [finishBeat_eq]
@[simp] theorem finishBeat_ahave (c : Option (Bool × Word)) (b : Beat) (s : State) :
    (finishBeat c b s).ahave = (c.isSome || s.ahave) := by
  rw [finishBeat_eq]
@[simp] theorem finishBeat_aval (c : Option (Bool × Word)) (b : Beat) (s : State) :
    (finishBeat c b s).aval = (c.map (fun x => x.1)).getD s.aval := by
  rw [finishBeat_eq]
@[simp] theorem finishBeat_asince (c : Option (Bool × Word)) (b : Beat) (s : State) :
    (finishBeat c b s).asince = if c.isSome then 0 else satSucc8 s.asince := by
  rw [finishBeat_eq]
@[simp] theorem finishBeat_aidx (c : Option (Bool × Word)) (b : Beat) (s : State) :
    (finishBeat c b s).aidx = (c.map (fun x => x.2)).getD s.aidx := by
  rw [finishBeat_eq]
@[simp] theorem finishBeat_latch (c : Option (Bool × Word)) (b : Beat) (s : State) :
    (finishBeat c b s).latch = s.latch := by
  rw [finishBeat_eq]
@[simp] theorem finishBeat_bitbuf (c : Option (Bool × Word)) (b : Beat) (s : State) :
    (finishBeat c b s).bitbuf = s.bitbuf := by
  rw [finishBeat_eq]
@[simp] theorem finishBeat_outbuf (c : Option (Bool × Word)) (b : Beat) (s : State) :
    (finishBeat c b s).outbuf = s.outbuf := by
  rw [finishBeat_eq]
@[simp] theorem finishBeat_params (c : Option (Bool × Word)) (b : Beat) (s : State) :
    (finishBeat c b s).params = s.params := by
  rw [finishBeat_eq]
@[simp] theorem finishBeat_irqSetNow (c : Option (Bool × Word)) (b : Beat) (s : State) :
    (finishBeat c b s).irqSetNow = if b.last then s.irqSetNow ||| irqDecDone else s.irqSetNow := by
  rw [finishBeat_eq]
@[simp] theorem finishBeat_draws (c : Option (Bool × Word)) (b : Beat) (s : State) :
    (finishBeat c b s).draws = s.draws := by
  rw [finishBeat_eq]
@[simp] theorem finishBeat_source (c : Option (Bool × Word)) (b : Beat) (s : State) :
    (finishBeat c b s).source = s.source := by
  rw [finishBeat_eq]
@[simp] theorem finishBeat_inputs (c : Option (Bool × Word)) (b : Beat) (s : State) :
    (finishBeat c b s).inputs = s.inputs := by
  rw [finishBeat_eq]
@[simp] theorem finishBeat_streamB (c : Option (Bool × Word)) (b : Beat) (s : State) :
    (finishBeat c b s).streamB = s.streamB := by
  rw [finishBeat_eq]
@[simp] theorem finishBeat_streamA (c : Option (Bool × Word)) (b : Beat) (s : State) :
    (finishBeat c b s).streamA = if s.alignEn then annotation b (alignUpdate c s) :: s.streamA else s.streamA := by
  rw [finishBeat_eq]
@[simp] theorem finishBeat_reads (c : Option (Bool × Word)) (b : Beat) (s : State) :
    (finishBeat c b s).reads = s.reads := by
  rw [finishBeat_eq]

@[simp] theorem commit_dstate (p : Polarity) (b : Beat) (s : State) :
    (commit p b s).dstate = s.dstate := by
  rw [commit_eq]
@[simp] theorem commit_busy (p : Polarity) (b : Beat) (s : State) :
    (commit p b s).busy = s.busy := by
  rw [commit_eq]
@[simp] theorem commit_done (p : Polarity) (b : Beat) (s : State) :
    (commit p b s).done = s.done := by
  rw [commit_eq]
@[simp] theorem commit_term (p : Polarity) (b : Beat) (s : State) :
    (commit p b s).term = s.term := by
  rw [commit_eq]
@[simp] theorem commit_ovf (p : Polarity) (b : Beat) (s : State) :
    (commit p b s).ovf = if s.bitcnt.toNat < s.params.bitbufDepth then s.ovf else true := by
  rw [commit_eq]
@[simp] theorem commit_found (p : Polarity) (b : Beat) (s : State) :
    (commit p b s).found = s.found := by
  rw [commit_eq]
@[simp] theorem commit_err (p : Polarity) (b : Beat) (s : State) :
    (commit p b s).err = s.err := by
  rw [commit_eq]
@[simp] theorem commit_irqStatus (p : Polarity) (b : Beat) (s : State) :
    (commit p b s).irqStatus = s.irqStatus := by
  rw [commit_eq]
@[simp] theorem commit_irqEnable (p : Polarity) (b : Beat) (s : State) :
    (commit p b s).irqEnable = s.irqEnable := by
  rw [commit_eq]
@[simp] theorem commit_alignEn (p : Polarity) (b : Beat) (s : State) :
    (commit p b s).alignEn = s.alignEn := by
  rw [commit_eq]
@[simp] theorem commit_edgeThr (p : Polarity) (b : Beat) (s : State) :
    (commit p b s).edgeThr = s.edgeThr := by
  rw [commit_eq]
@[simp] theorem commit_gapThr (p : Polarity) (b : Beat) (s : State) :
    (commit p b s).gapThr = s.gapThr := by
  rw [commit_eq]
@[simp] theorem commit_tcnt (p : Polarity) (b : Beat) (s : State) :
    (commit p b s).tcnt = 0 := by
  rw [commit_eq]
@[simp] theorem commit_gapcnt (p : Polarity) (b : Beat) (s : State) :
    (commit p b s).gapcnt = 0 := by
  rw [commit_eq]
@[simp] theorem commit_lastpol (p : Polarity) (b : Beat) (s : State) :
    (commit p b s).lastpol = s.lastpol := by
  rw [commit_eq]
@[simp] theorem commit_bitcnt (p : Polarity) (b : Beat) (s : State) :
    (commit p b s).bitcnt = satSucc32 s.bitcnt := by
  rw [commit_eq]
@[simp] theorem commit_sidx (p : Polarity) (b : Beat) (s : State) :
    (commit p b s).sidx = s.sidx := by
  rw [commit_eq]
@[simp] theorem commit_frameOffset (p : Polarity) (b : Beat) (s : State) :
    (commit p b s).frameOffset = s.frameOffset := by
  rw [commit_eq]
@[simp] theorem commit_src (p : Polarity) (b : Beat) (s : State) :
    (commit p b s).src = s.src := by
  rw [commit_eq]
@[simp] theorem commit_len (p : Polarity) (b : Beat) (s : State) :
    (commit p b s).len = s.len := by
  rw [commit_eq]
@[simp] theorem commit_dst (p : Polarity) (b : Beat) (s : State) :
    (commit p b s).dst = s.dst := by
  rw [commit_eq]
@[simp] theorem commit_outlen (p : Polarity) (b : Beat) (s : State) :
    (commit p b s).outlen = s.outlen := by
  rw [commit_eq]
@[simp] theorem commit_opa (p : Polarity) (b : Beat) (s : State) :
    (commit p b s).opa = s.opa := by
  rw [commit_eq]
@[simp] theorem commit_opb (p : Polarity) (b : Beat) (s : State) :
    (commit p b s).opb = s.opb := by
  rw [commit_eq]
@[simp] theorem commit_opc (p : Polarity) (b : Beat) (s : State) :
    (commit p b s).opc = s.opc := by
  rw [commit_eq]
@[simp] theorem commit_result (p : Polarity) (b : Beat) (s : State) :
    (commit p b s).result = s.result := by
  rw [commit_eq]
@[simp] theorem commit_ahave (p : Polarity) (b : Beat) (s : State) :
    (commit p b s).ahave = s.ahave := by
  rw [commit_eq]
@[simp] theorem commit_aval (p : Polarity) (b : Beat) (s : State) :
    (commit p b s).aval = s.aval := by
  rw [commit_eq]
@[simp] theorem commit_asince (p : Polarity) (b : Beat) (s : State) :
    (commit p b s).asince = s.asince := by
  rw [commit_eq]
@[simp] theorem commit_aidx (p : Polarity) (b : Beat) (s : State) :
    (commit p b s).aidx = s.aidx := by
  rw [commit_eq]
@[simp] theorem commit_latch (p : Polarity) (b : Beat) (s : State) :
    (commit p b s).latch = s.latch := by
  rw [commit_eq]
@[simp] theorem commit_bitbuf (p : Polarity) (b : Beat) (s : State) :
    (commit p b s).bitbuf = if s.bitcnt.toNat < s.params.bitbufDepth then cellsSet s.bitcnt.toNat (bitOf p) s.bitbuf else s.bitbuf := by
  rw [commit_eq]
@[simp] theorem commit_outbuf (p : Polarity) (b : Beat) (s : State) :
    (commit p b s).outbuf = s.outbuf := by
  rw [commit_eq]
@[simp] theorem commit_params (p : Polarity) (b : Beat) (s : State) :
    (commit p b s).params = s.params := by
  rw [commit_eq]
@[simp] theorem commit_irqSetNow (p : Polarity) (b : Beat) (s : State) :
    (commit p b s).irqSetNow = s.irqSetNow := by
  rw [commit_eq]
@[simp] theorem commit_draws (p : Polarity) (b : Beat) (s : State) :
    (commit p b s).draws = s.draws := by
  rw [commit_eq]
@[simp] theorem commit_source (p : Polarity) (b : Beat) (s : State) :
    (commit p b s).source = s.source := by
  rw [commit_eq]
@[simp] theorem commit_inputs (p : Polarity) (b : Beat) (s : State) :
    (commit p b s).inputs = s.inputs := by
  rw [commit_eq]
@[simp] theorem commit_streamB (p : Polarity) (b : Beat) (s : State) :
    (commit p b s).streamB = commitBeat p b s :: s.streamB := by
  rw [commit_eq]
@[simp] theorem commit_streamA (p : Polarity) (b : Beat) (s : State) :
    (commit p b s).streamA = s.streamA := by
  rw [commit_eq]
@[simp] theorem commit_reads (p : Polarity) (b : Beat) (s : State) :
    (commit p b s).reads = s.reads := by
  rw [commit_eq]

@[simp] theorem terminate_dstate (s : State) :
    (terminate s).dstate = .drain := rfl
@[simp] theorem terminate_busy (s : State) :
    (terminate s).busy = s.busy := rfl
@[simp] theorem terminate_done (s : State) :
    (terminate s).done = s.done := rfl
@[simp] theorem terminate_term (s : State) :
    (terminate s).term = true := rfl
@[simp] theorem terminate_ovf (s : State) :
    (terminate s).ovf = s.ovf := rfl
@[simp] theorem terminate_found (s : State) :
    (terminate s).found = s.found := rfl
@[simp] theorem terminate_err (s : State) :
    (terminate s).err = s.err := rfl
@[simp] theorem terminate_irqStatus (s : State) :
    (terminate s).irqStatus = s.irqStatus ||| irqDecTerm := rfl
@[simp] theorem terminate_irqEnable (s : State) :
    (terminate s).irqEnable = s.irqEnable := rfl
@[simp] theorem terminate_alignEn (s : State) :
    (terminate s).alignEn = s.alignEn := rfl
@[simp] theorem terminate_edgeThr (s : State) :
    (terminate s).edgeThr = s.edgeThr := rfl
@[simp] theorem terminate_gapThr (s : State) :
    (terminate s).gapThr = s.gapThr := rfl
@[simp] theorem terminate_tcnt (s : State) :
    (terminate s).tcnt = s.tcnt := rfl
@[simp] theorem terminate_gapcnt (s : State) :
    (terminate s).gapcnt = s.gapcnt := rfl
@[simp] theorem terminate_lastpol (s : State) :
    (terminate s).lastpol = s.lastpol := rfl
@[simp] theorem terminate_bitcnt (s : State) :
    (terminate s).bitcnt = s.bitcnt := rfl
@[simp] theorem terminate_sidx (s : State) :
    (terminate s).sidx = s.sidx := rfl
@[simp] theorem terminate_frameOffset (s : State) :
    (terminate s).frameOffset = s.frameOffset := rfl
@[simp] theorem terminate_src (s : State) :
    (terminate s).src = s.src := rfl
@[simp] theorem terminate_len (s : State) :
    (terminate s).len = s.len := rfl
@[simp] theorem terminate_dst (s : State) :
    (terminate s).dst = s.dst := rfl
@[simp] theorem terminate_outlen (s : State) :
    (terminate s).outlen = s.outlen := rfl
@[simp] theorem terminate_opa (s : State) :
    (terminate s).opa = s.opa := rfl
@[simp] theorem terminate_opb (s : State) :
    (terminate s).opb = s.opb := rfl
@[simp] theorem terminate_opc (s : State) :
    (terminate s).opc = s.opc := rfl
@[simp] theorem terminate_result (s : State) :
    (terminate s).result = s.result := rfl
@[simp] theorem terminate_ahave (s : State) :
    (terminate s).ahave = s.ahave := rfl
@[simp] theorem terminate_aval (s : State) :
    (terminate s).aval = s.aval := rfl
@[simp] theorem terminate_asince (s : State) :
    (terminate s).asince = s.asince := rfl
@[simp] theorem terminate_aidx (s : State) :
    (terminate s).aidx = s.aidx := rfl
@[simp] theorem terminate_latch (s : State) :
    (terminate s).latch = s.latch := rfl
@[simp] theorem terminate_bitbuf (s : State) :
    (terminate s).bitbuf = s.bitbuf := rfl
@[simp] theorem terminate_outbuf (s : State) :
    (terminate s).outbuf = s.outbuf := rfl
@[simp] theorem terminate_params (s : State) :
    (terminate s).params = s.params := rfl
@[simp] theorem terminate_irqSetNow (s : State) :
    (terminate s).irqSetNow = s.irqSetNow ||| irqDecTerm := rfl
@[simp] theorem terminate_draws (s : State) :
    (terminate s).draws = s.draws := rfl
@[simp] theorem terminate_source (s : State) :
    (terminate s).source = s.source := rfl
@[simp] theorem terminate_inputs (s : State) :
    (terminate s).inputs = s.inputs := rfl
@[simp] theorem terminate_streamB (s : State) :
    (terminate s).streamB = s.streamB := rfl
@[simp] theorem terminate_streamA (s : State) :
    (terminate s).streamA = s.streamA := rfl
@[simp] theorem terminate_reads (s : State) :
    (terminate s).reads = s.reads := rfl

@[simp] theorem advanceCounts_dstate (s : State) :
    (advanceCounts s).dstate = s.dstate := rfl
@[simp] theorem advanceCounts_busy (s : State) :
    (advanceCounts s).busy = s.busy := rfl
@[simp] theorem advanceCounts_done (s : State) :
    (advanceCounts s).done = s.done := rfl
@[simp] theorem advanceCounts_term (s : State) :
    (advanceCounts s).term = s.term := rfl
@[simp] theorem advanceCounts_ovf (s : State) :
    (advanceCounts s).ovf = s.ovf := rfl
@[simp] theorem advanceCounts_found (s : State) :
    (advanceCounts s).found = s.found := rfl
@[simp] theorem advanceCounts_err (s : State) :
    (advanceCounts s).err = s.err := rfl
@[simp] theorem advanceCounts_irqStatus (s : State) :
    (advanceCounts s).irqStatus = s.irqStatus := rfl
@[simp] theorem advanceCounts_irqEnable (s : State) :
    (advanceCounts s).irqEnable = s.irqEnable := rfl
@[simp] theorem advanceCounts_alignEn (s : State) :
    (advanceCounts s).alignEn = s.alignEn := rfl
@[simp] theorem advanceCounts_edgeThr (s : State) :
    (advanceCounts s).edgeThr = s.edgeThr := rfl
@[simp] theorem advanceCounts_gapThr (s : State) :
    (advanceCounts s).gapThr = s.gapThr := rfl
@[simp] theorem advanceCounts_tcnt (s : State) :
    (advanceCounts s).tcnt = satSucc32 s.tcnt := rfl
@[simp] theorem advanceCounts_gapcnt (s : State) :
    (advanceCounts s).gapcnt = satSucc32 s.gapcnt := rfl
@[simp] theorem advanceCounts_lastpol (s : State) :
    (advanceCounts s).lastpol = s.lastpol := rfl
@[simp] theorem advanceCounts_bitcnt (s : State) :
    (advanceCounts s).bitcnt = s.bitcnt := rfl
@[simp] theorem advanceCounts_sidx (s : State) :
    (advanceCounts s).sidx = s.sidx := rfl
@[simp] theorem advanceCounts_frameOffset (s : State) :
    (advanceCounts s).frameOffset = s.frameOffset := rfl
@[simp] theorem advanceCounts_src (s : State) :
    (advanceCounts s).src = s.src := rfl
@[simp] theorem advanceCounts_len (s : State) :
    (advanceCounts s).len = s.len := rfl
@[simp] theorem advanceCounts_dst (s : State) :
    (advanceCounts s).dst = s.dst := rfl
@[simp] theorem advanceCounts_outlen (s : State) :
    (advanceCounts s).outlen = s.outlen := rfl
@[simp] theorem advanceCounts_opa (s : State) :
    (advanceCounts s).opa = s.opa := rfl
@[simp] theorem advanceCounts_opb (s : State) :
    (advanceCounts s).opb = s.opb := rfl
@[simp] theorem advanceCounts_opc (s : State) :
    (advanceCounts s).opc = s.opc := rfl
@[simp] theorem advanceCounts_result (s : State) :
    (advanceCounts s).result = s.result := rfl
@[simp] theorem advanceCounts_ahave (s : State) :
    (advanceCounts s).ahave = s.ahave := rfl
@[simp] theorem advanceCounts_aval (s : State) :
    (advanceCounts s).aval = s.aval := rfl
@[simp] theorem advanceCounts_asince (s : State) :
    (advanceCounts s).asince = s.asince := rfl
@[simp] theorem advanceCounts_aidx (s : State) :
    (advanceCounts s).aidx = s.aidx := rfl
@[simp] theorem advanceCounts_latch (s : State) :
    (advanceCounts s).latch = s.latch := rfl
@[simp] theorem advanceCounts_bitbuf (s : State) :
    (advanceCounts s).bitbuf = s.bitbuf := rfl
@[simp] theorem advanceCounts_outbuf (s : State) :
    (advanceCounts s).outbuf = s.outbuf := rfl
@[simp] theorem advanceCounts_params (s : State) :
    (advanceCounts s).params = s.params := rfl
@[simp] theorem advanceCounts_irqSetNow (s : State) :
    (advanceCounts s).irqSetNow = s.irqSetNow := rfl
@[simp] theorem advanceCounts_draws (s : State) :
    (advanceCounts s).draws = s.draws := rfl
@[simp] theorem advanceCounts_source (s : State) :
    (advanceCounts s).source = s.source := rfl
@[simp] theorem advanceCounts_inputs (s : State) :
    (advanceCounts s).inputs = s.inputs := rfl
@[simp] theorem advanceCounts_streamB (s : State) :
    (advanceCounts s).streamB = s.streamB := rfl
@[simp] theorem advanceCounts_streamA (s : State) :
    (advanceCounts s).streamA = s.streamA := rfl
@[simp] theorem advanceCounts_reads (s : State) :
    (advanceCounts s).reads = s.reads := rfl

/-- What offering a beat can leave: nothing happens, or the first beat of the source is accepted in RUN or in DRAIN. -/
theorem takeBeat_cases (s : State) :
    takeBeat s = s ∨
    ∃ b rest, s.source = b :: rest ∧
      ((s.dstate = .run ∧ takeBeat s = runStep b { s with source := rest }) ∨
       (s.dstate = .drain ∧ takeBeat s = drainStep b { s with source := rest })) := by
  unfold takeBeat
  split
  · exact .inl rfl
  · rename_i b rest h
    cases hd : s.dstate with
    | idle => simp [sReady, hd]
    | run => exact .inr ⟨b, rest, h, .inl ⟨rfl, by simp [sReady, hd, acceptBeat]⟩⟩
    | drain => exact .inr ⟨b, rest, h, .inr ⟨rfl, by simp [sReady, hd, acceptBeat]⟩⟩

/-- A saturating step as a number: `sat32(v + 1)` (00_scope R12). -/
theorem satSucc32_toNat (v : Word) : (satSucc32 v).toNat = min (v.toNat + 1) 0xFFFFFFFF := by
  unfold satSucc32
  split
  · rename_i h; subst h; decide
  · rename_i h
    have hv := v.isLt
    have : v.toNat ≠ 0xFFFFFFFF := fun h2 => h (BitVec.eq_of_toNat_eq (by rw [h2]; rfl))
    have h1 : (1 : Word).toNat = 1 := rfl
    rw [BitVec.toNat_add, h1]
    omega

/-- A saturating step of `ASINCE` as a number (43 R181). -/
theorem satSucc8_toNat (v : BitVec 8) : (satSucc8 v).toNat = min (v.toNat + 1) 255 := by
  unfold satSucc8
  split
  · rename_i h; subst h; decide
  · rename_i h
    have hv := v.isLt
    have : v.toNat ≠ 255 := fun h2 => h (BitVec.eq_of_toNat_eq (by rw [h2]; rfl))
    have h1 : (1 : BitVec 8).toNat = 1 := rfl
    rw [BitVec.toNat_add, h1]
    omega

/-- The termination condition of a beat, as numbers of the state before it (42 R158). -/
theorem terminates_advance (s : State) :
    terminates (advanceCounts s) = true ↔
      s.gapThr.toNat < min (s.gapcnt.toNat + 1) 0xFFFFFFFF ∧ 6 ≤ s.bitcnt.toNat := by
  rw [terminates, Bool.and_eq_true, decide_eq_true_eq, decide_eq_true_eq, BitVec.lt_def]
  exact Iff.of_eq (by rw [← satSucc32_toNat]; rfl)

/-- The qualification of a beat's edge, as numbers of the state before it (42 R159). -/
theorem qualifies_advance (p : Polarity) (s : State) :
    qualifies p (advanceCounts s) = true ↔
      s.edgeThr.toNat ≤ min (s.tcnt.toNat + 1) 0xFFFFFFFF ∧ s.lastpol ≠ p := by
  rw [qualifies, Bool.and_eq_true, decide_eq_true_eq, decide_eq_true_eq, BitVec.le_def]
  exact Iff.of_eq (by rw [← satSucc32_toNat]; rfl)

/-- A property of what an accepted beat leaves, case by case: IDLE, termination, commit, neither, DRAIN. -/
theorem acceptBeat_keeps (P : State → Prop) (b : Beat) (s : State)
    (hidle : s.dstate = .idle → P s)
    (hterm : s.dstate = .run → terminates (advanceCounts s) = true → P (finishBeat none b (terminate (advanceCounts s))))
    (hcommit : s.dstate = .run → terminates (advanceCounts s) = false →
      qualifies (beatPolarity s.params b) (advanceCounts s) = true →
      P (finishBeat (some (bitOf (beatPolarity s.params b), s.bitcnt)) b
        { commit (beatPolarity s.params b) b (advanceCounts s) with lastpol := beatPolarity s.params b }))
    (hpass : s.dstate = .run → terminates (advanceCounts s) = false →
      qualifies (beatPolarity s.params b) (advanceCounts s) = false →
      P (finishBeat none b { advanceCounts s with lastpol := beatPolarity s.params b }))
    (hdrain : s.dstate = .drain → P (finishBeat none b s)) : P (acceptBeat b s) := by
  unfold acceptBeat
  split
  · exact hidle ‹_›
  · rcases runStep_cases b s with ⟨h, e⟩ | ⟨h, q, e⟩ | ⟨h, q, e⟩ <;> rw [e]
    · exact hterm ‹_› h
    · exact hcommit ‹_› h q
    · exact hpass ‹_› h q
  · exact hdrain ‹_›

end Sys2Proof.Machine
end

