-- ==== Sys2Proof/Laws/PerInstr.lean ====
section
/-! SUPPORT. Statements made of every command, one lemma a constructor. EncodesRow: the command's word matches its row of spec/opcode_table.json (mask 0xFFFFF0FF, 30_encoding R103). -/

namespace Sys2Proof.Laws.EncodesRow

open Sys2Proof

/-- The `match` of the command's row in spec/opcode_table.json. -/
def rowMatch (i : Instr) : Word :=
  match i with
  | .nop => 0x00000000
  | .clear => 0x00000001
  | .decode => 0x00000002
  | .sign => 0x00000010
  | .clamp => 0x00000011
  | .edge => 0x00000012
  | .locate => 0x00000020
  | .chunk _ => 0x00000030
  | .revb => 0x00000031
  | .hexb _ => 0x00000032
  | .addr _ _ => 0x00000033

/-- The word of a well-formed command, under the row's mask, is the row's match. -/
def Statement (i : Instr) : Prop := i.wellFormed = true → encode i &&& 0xFFFFF0FF = rowMatch i

theorem nop : Statement .nop := fun _ => by decide
theorem clear : Statement .clear := fun _ => by decide
theorem decode : Statement .decode := fun _ => by decide
theorem sign : Statement .sign := fun _ => by decide
theorem clamp : Statement .clamp := fun _ => by decide
theorem edge : Statement .edge := fun _ => by decide
theorem locate : Statement .locate := fun _ => by decide
theorem chunk (r : Bool) : Statement (.chunk r) := fun _ => by cases r <;> decide
theorem revb : Statement .revb := fun _ => by decide

/-- The mask hides `PAD` and `R` of HEXB, whatever they are. -/
theorem masked_hexb : ∀ (p : BitVec 3) (r : Bool),
    ((0 : BitVec 20) ++ p ++ BitVec.ofBool r ++ (0x32 : BitVec 8) : Word) &&& 0xFFFFF0FF = 0x00000032 := by decide

/-- The mask hides `PAD` and `R` of ADDR, whatever they are. -/
theorem masked_addr : ∀ (p : BitVec 3) (r : Bool),
    ((0 : BitVec 20) ++ p ++ BitVec.ofBool r ++ (0x33 : BitVec 8) : Word) &&& 0xFFFFF0FF = 0x00000033 := by decide

theorem hexb (pad : Nat) : Statement (.hexb pad) := fun _ => masked_hexb (BitVec.ofNat 3 pad) false
theorem addr (r : Bool) (pad : Nat) : Statement (.addr r pad) := fun _ => masked_addr (BitVec.ofNat 3 pad) r

end Sys2Proof.Laws.EncodesRow
end

