-- ==== Sys2Proof/Laws/Step.lean ====
section
/-! SUPPORT. What a host access, a clock cycle and a step can do, once each, and how a property that every event keeps is kept by every step. -/

namespace Sys2Proof.Machine

/-- What a host write can leave: nothing, a register written, an interrupt event or acknowledge, or a command issued. -/
inductive WriteResult (data : Word) (s : State) : State → Prop
  | ignored : WriteResult data s s
  | dropped : WriteResult data s (raiseIrq irqDrop s)
  | alignEn : WriteResult data s { s with alignEn := data.getLsbD 0 }
  | acknowledged : WriteResult data s (acknowledge data s)
  | irqEnable : WriteResult data s { s with irqEnable := data.setWidth 5 }
  | edgeThr (hd : s.dstate = .idle) : WriteResult data s { s with edgeThr := data }
  | gapThr (hd : s.dstate = .idle) : WriteResult data s { s with gapThr := data }
  | src : WriteResult data s { s with src := data }
  | len : WriteResult data s { s with len := data }
  | dst : WriteResult data s { s with dst := data }
  | opa : WriteResult data s { s with opa := data }
  | opb : WriteResult data s { s with opb := data }
  | opc : WriteResult data s { s with opc := data }
  | issued (t : State) (h : issue data s = .next t) : WriteResult data s t

/-- A threshold write is locked or takes effect in IDLE. -/
theorem thresholdWrite_result {data : Word} {s t : State} (h : s.dstate = .idle → WriteResult data s t) :
    WriteResult data s (thresholdWrite t s) := by
  unfold thresholdWrite
  split
  · rename_i hd; exact h hd
  · exact .dropped
  · exact .dropped

/-- What a host write that answered a next state has left. -/
theorem writeWord_cases {offset : BitVec 16} {data : Word} {s t : State} (h : writeWord offset data s = .next t) :
    WriteResult data s t := by
  unfold writeWord at h
  split at h
  · rename_i r _
    cases r <;> simp only [writeReg] at h
    case cmd => exact .issued t h
    case ctrl => cases h; exact .alignEn
    case irqStatus => cases h; exact .acknowledged
    case irqEnable => cases h; exact .irqEnable
    case edgeThr => cases h; exact thresholdWrite_result .edgeThr
    case gapThr => cases h; exact thresholdWrite_result .gapThr
    case src => cases h; exact .src
    case len => cases h; exact .len
    case dst => cases h; exact .dst
    case opa => cases h; exact .opa
    case opb => cases h; exact .opb
    case opc => cases h; exact .opc
    all_goals
      cases h
      exact .ignored
  all_goals
    cases h
    exact .ignored

/-- What the host's access can leave. -/
theorem hostAccess_cases {op : Option HostOp} {s t : State} (h : hostAccess op s = .next t) :
    t = s ∨ (∃ offset, t = hostRead offset (readWord offset s) s) ∨
    (∃ offset data, writeWord offset data s = .next t) := by
  unfold hostAccess at h
  split at h
  · cases h; exact .inl rfl
  · rename_i offset; cases h; exact .inr (.inl ⟨offset, rfl⟩)
  · rename_i offset data; exact .inr (.inr ⟨offset, data, h⟩)

/-- What a step is made of: a reset cycle, or the beat, the completion and the host access, each present or not. -/
theorem step_cases {s t : State} (h : step s = .next t) :
    ((nextCycle s).rst = true ∧ t = resetCycle (nextCycle s).host (beginCycle s)) ∨
    ((nextCycle s).rst = false ∧ ∃ u v,
      (u = beginCycle s ∨ u = takeBeat (beginCycle s)) ∧ (v = u ∨ completionEvent u = .next v) ∧
      hostAccess (nextCycle s).host v = .next t) := by
  unfold step clockCycle at h
  split at h
  · rename_i hr; cases h; exact .inl ⟨hr, rfl⟩
  · rename_i hr
    refine .inr ⟨by simpa using hr, ?_⟩
    unfold runCycle at h
    have hu : ∃ u, (u = beginCycle s ∨ u = takeBeat (beginCycle s)) ∧
        (if (nextCycle s).sValid = true then takeBeat (beginCycle s) else beginCycle s) = u := by
      split
      · exact ⟨_, .inr rfl, rfl⟩
      · exact ⟨_, .inl rfl, rfl⟩
    obtain ⟨u, hu1, hu2⟩ := hu
    rw [hu2] at h
    split at h
    · cases hc : completionEvent u with
      | next v => rw [hc] at h; exact ⟨u, v, hu1, .inr hc, h⟩
      | fault r => rw [hc] at h; cases h
      | refused r => rw [hc] at h; cases h
    · exact ⟨u, u, hu1, .inl rfl, h⟩

/-- A property that the start of a cycle, an offered beat, a completion, a host access and a reset cycle keep is kept by every
step. -/
theorem step_keeps (P : State → Prop)
    (hbegin : ∀ s, P s → P (beginCycle s))
    (hbeat : ∀ s, P s → P (takeBeat s))
    (hcomplete : ∀ s t, P s → completionEvent s = .next t → P t)
    (hhost : ∀ op s t, P s → hostAccess op s = .next t → P t)
    (hreset : ∀ op s, P s → P (resetCycle op s))
    {s t : State} (hs : P s) (h : step s = .next t) : P t := by
  rcases step_cases h with ⟨_, rfl⟩ | ⟨_, u, v, hu, hv, ht⟩
  · exact hreset _ _ (hbegin _ hs)
  · have h1 : P u := by
      rcases hu with rfl | rfl
      · exact hbegin _ hs
      · exact hbeat _ (hbegin _ hs)
    have h2 : P v := by
      rcases hv with rfl | hv
      · exact h1
      · exact hcomplete _ _ h1 hv
    exact hhost _ _ _ h2 ht

end Sys2Proof.Machine
end

