-- ==== Sys2Proof/Tests/Slice0.lean ====
section
/-! SUPPORT. The model's own tests: ill-formed commands are refused, command words written out from 30_encoding R110 decode to their commands, single steps give the values of 95_test_vectors, and a witness for each clause of each statement that has hypotheses. -/

namespace Sys2Proof.Tests

open Sys2Proof Sys2Proof.Machine

/-- The state a step left, if it left one. -/
def nextOf (o : Host.Outcome State Fault Refusal) : Option State :=
  match o with
  | .next t => some t
  | .fault _ => none
  | .refused _ => none

/-- The reset state with this BitString in BITBUF, as a capture would leave it (95, 2.5), and its length latched, as the issue of
a command leaves it. -/
def withBits (bits : List Bool) : State :=
  { State.reset with
    bitbuf := bits.zipIdx.map (fun c => (c.2, c.1)), bitcnt := BitVec.ofNat 32 bits.length,
    latch := { Latch.reset with bitlen := bits.length } }

/-- The bits of an octet, the first received first. -/
def bitsOf (o : Byte) : List Bool := (List.range 8).map (fun k => o.getLsbD (7 - k))

/-- `PATTERN` as bits: five times 10101010, then 10101011 (00_scope R9). -/
def patternBits : List Bool := (List.replicate 5 (bitsOf 0xAA)).flatten ++ bitsOf 0xAB

/-- BITBUF of the formatter vectors: the octets 01, 02, 03 (95, 2.6). -/
def formatterState : State := withBits (bitsOf 0x01 ++ bitsOf 0x02 ++ bitsOf 0x03)

/-- A state with these latched operands for the formatter. -/
def latched (src len dst opa : Word) (s : State) : State :=
  { s with latch := { s.latch with src := src, len := len, dst := dst, opa := opa } }

/-- A state with these latched operands for the primitives. -/
def latchedOps (opa opb opc : Word) (s : State) : State :=
  { s with latch := { s.latch with opa := opa, opb := opb, opc := opc } }

/-- A sample beat with this voltage code, tag 7. -/
def beat (v : Int) (last : Bool) : Beat := { voltage := BitVec.ofInt 32 v, tag := 7, last := last }

/-! ## Ill-formed commands -/

/-- 30_encoding R102: `PAD` is three bits; 8 does not fit HEXB. -/
theorem test_wf_refuses_hexb_pad_8 : Instr.wellFormed (.hexb 8) = false := by decide
/-- 30_encoding R102: 8 does not fit ADDR. -/
theorem test_wf_refuses_addr_pad_8 : Instr.wellFormed (.addr true 8) = false := by decide
/-- 30_encoding R102: 7 fits both. -/
theorem test_wf_accepts_pad_7 : Instr.wellFormed (.hexb 7) = true ∧ Instr.wellFormed (.addr false 7) = true := by decide

/-! ## Decoding, from words written out bit by bit (30_encoding R100, R110) -/

theorem test_decode_nop : decodeWord 0b00000000000000000000_000_0_00000000#32 = .ok .nop := by rfl
theorem test_decode_clear : decodeWord 0b00000000000000000000_000_0_00000001#32 = .ok .clear := by rfl
theorem test_decode_decode : decodeWord 0b00000000000000000000_000_0_00000010#32 = .ok .decode := by rfl
theorem test_decode_sign : decodeWord 0b00000000000000000000_000_0_00010000#32 = .ok .sign := by rfl
theorem test_decode_clamp : decodeWord 0b00000000000000000000_000_0_00010001#32 = .ok .clamp := by rfl
theorem test_decode_edge : decodeWord 0b00000000000000000000_000_0_00010010#32 = .ok .edge := by rfl
theorem test_decode_locate : decodeWord 0b00000000000000000000_000_0_00100000#32 = .ok .locate := by rfl
theorem test_decode_chunk : decodeWord 0b00000000000000000000_000_0_00110000#32 = .ok (.chunk false) := by rfl
theorem test_decode_chunk_r : decodeWord 0b00000000000000000000_000_1_00110000#32 = .ok (.chunk true) := by rfl
theorem test_decode_revb : decodeWord 0b00000000000000000000_000_0_00110001#32 = .ok .revb := by rfl
theorem test_decode_hexb_pad_2 : decodeWord 0b00000000000000000000_010_0_00110010#32 = .ok (.hexb 2) := by rfl
/-- DF-27's word 0xE32: `PAD` = 7. -/
theorem test_decode_hexb_pad_7 : decodeWord 0b00000000000000000000_111_0_00110010#32 = .ok (.hexb 7) := by rfl
theorem test_decode_addr : decodeWord 0b00000000000000000000_010_0_00110011#32 = .ok (.addr false 2) := by rfl
theorem test_decode_addr_r : decodeWord 0b00000000000000000000_010_1_00110011#32 = .ok (.addr true 2) := by rfl
/-- DC-4: bit 12 set. -/
theorem test_decode_reserved_bit : decodeWord 0b00000000000000000001_000_0_00000000#32 = .error .reservedBits := by rfl
/-- DC-5: a reserved opcode. -/
theorem test_decode_reserved_op : decodeWord 0b00000000000000000000_000_0_00000011#32 = .error .reservedOpcode := by rfl
/-- DC-6: NOP ignores `PAD`. -/
theorem test_decode_nop_pad : decodeWord 0x00000E00 = .ok .nop := by rfl
/-- A number wider than the command word is no command. -/
theorem test_table_word_wide : decodeTableWord 32 (2 ^ 32) = none := by decide

/-! ## Control -/

/-- DC-1. -/
theorem test_nop : (nextOf (exec .nop State.reset)).map (fun t => (t.err, t.irqStatus)) = some (.ok, 0x04) := by decide
/-- DC-2, with `FOUND` and a BitString present: `BITCNT`, `STATUS`, `FRAME_OFFSET`. -/
theorem test_clear :
    (nextOf (exec .clear { withBits patternBits with found := true, frameOffset := 48 })).map
      (fun t => (t.bitcnt, statusWord t, t.frameOffset, t.edgeThr)) = some (0, 0, 0xFFFFFFFF, 70) := by decide

/-! ## Signal primitives -/

/-- DS-1. -/
theorem test_sign_negative :
    (nextOf (exec .sign (latchedOps 0xFFFFFF9C 0 0 State.reset))).map (·.result) = some 0xFFFFFFFF := by decide
/-- DS-3. -/
theorem test_sign_most_positive :
    (nextOf (exec .sign (latchedOps 0x7FFFFFFF 0 0 State.reset))).map (·.result) = some 1 := by decide
/-- DS-8: the comparison is signed. -/
theorem test_clamp_signed :
    (nextOf (exec .clamp (latchedOps 0x80000000 0xFFFFFFFF 1 State.reset))).map (·.result) = some 0xFFFFFFFF := by decide
/-- DS-10. -/
theorem test_clamp_badarg :
    (nextOf (exec .clamp (latchedOps 0 10 3 { State.reset with result := 9 }))).map (fun t => (t.result, t.err)) =
      some (9, .badArg) := by decide
/-- DS-11: ZERO is a polarity of its own. -/
theorem test_edge_neg_zero :
    (nextOf (exec .edge (latchedOps 0xFFFFFFFF 0 0 State.reset))).map (·.result) = some 1 := by decide
/-- DS-16. -/
theorem test_edge_same :
    (nextOf (exec .edge (latchedOps 0xFFFFFFFD 0xFFFFFFFE 0 State.reset))).map (·.result) = some 0 := by decide

/-! ## The decoder and the alignment -/

/-- 42 R153, example: `STATUS` after DECODE from reset. -/
theorem test_decode_command :
    (nextOf (exec .decode State.reset)).map (fun t => (statusWord t, sReady t)) = some (1, true) := by decide
/-- DE-2. -/
theorem test_decode_in_run :
    (nextOf (exec .decode { State.reset with dstate := .run })).map (fun t => (t.err, t.dstate)) =
      some (.conflict, .run) := by decide

/-- DV-6 before its second commit: (1 @ 250), 100 samples after (1 @ 150). -/
def dv6 : State :=
  { State.reset with
    dstate := .run, tcnt := 99, gapcnt := 99, lastpol := .neg, bitcnt := 1, sidx := 250,
    bitbuf := [(0, true)], ahave := true, aval := true, aidx := 0, asince := 99 }

/-- DV-6: the bit of the second commit, with its index, its sample's index and its tag. -/
theorem test_commit :
    (acceptBeat (beat 100 false) dv6).streamB = [{ value := true, index := 1, sidx := 250, tag := 7 }] := by decide
/-- DV-6: the counter, `LASTPOL`, BITBUF and the alignment registers after it. -/
theorem test_commit_registers :
    (fun t => (t.tcnt, t.lastpol, t.bitbuf, t.aidx, t.asince)) (acceptBeat (beat 100 false) dv6) =
      (0, .pos, [(0, true), (1, true)], 1, 0) := by decide

/-- DV-11 before its beat 25: six bits, `GAPCNT` 6, `GAP_THR` 6. -/
def dv11 : State :=
  { State.reset with
    dstate := .run, edgeThr := 3, gapThr := 6, tcnt := 6, gapcnt := 6, lastpol := .neg, bitcnt := 6, sidx := 25,
    ahave := true, aval := false, aidx := 5, asince := 6 }

/-- DV-11: the terminating beat commits nothing and leaves `LASTPOL`. -/
theorem test_terminate :
    (fun t => (t.dstate, t.term, t.bitcnt, t.lastpol, t.gapcnt, t.irqStatus)) (acceptBeat (beat 100 false) dv11) =
      (.drain, true, 6, .neg, 7, 0b00010) := by decide

/-- DA-1 before its beat 130: `ASINCE` 124. -/
def da1 : State :=
  { State.reset with
    dstate := .run, edgeThr := 3, gapThr := 1000, tcnt := 124, gapcnt := 124, lastpol := .pos, bitcnt := 1, sidx := 130,
    ahave := true, aval := true, aidx := 0, asince := 124 }

/-- DA-1: sample 130, at distance 125, is still annotated. -/
theorem test_align_inside :
    ((acceptBeat (beat 100 false) da1).streamA.map (fun a => (a.present, a.bitIndex, a.bitValue))) = [(true, 0, true)] := by
  decide
/-- DA-1: sample 131, at distance 126, is not. -/
theorem test_align_outside :
    ((acceptBeat (beat 100 false) { da1 with tcnt := 125, gapcnt := 125, sidx := 131, asince := 125 }).streamA.map
      (fun a => (a.present, a.bitIndex, a.bitValue))) = [(false, 0xFFFFFFFF, false)] := by decide

/-! ## The locator -/

/-- W10: the source's example, `FRAME_OFFSET` = 52. -/
theorem test_locate :
    (nextOf (exec .locate (withBits ([true, true, true, true] ++ patternBits ++ bitsOf 0x0F ++ [false, false, false, false])))).map
      (fun t => (t.found, t.frameOffset, t.err)) = some (true, 52, .ok) := by decide
/-- DL-4: 47 bits of the pattern. -/
theorem test_locate_short :
    (nextOf (exec .locate (withBits (patternBits.take 47)))).map (fun t => (t.found, t.frameOffset, t.err)) =
      some (false, 0xFFFFFFFF, .notFound) := by decide

/-- 44 R190: `n` is `BITLEN` at the issue, and the issue latches it. -/
theorem test_locate_latches_length :
    (nextOf (writeWord 0x014 0x20 formatterState)).map (fun t => (t.latch.bitlen, t.busy)) = some (24, true) := by decide
/-- 44 R190: a pattern whose last bit came after the issue is not within BITBUF[0 .. n). -/
theorem test_locate_length_at_issue :
    (nextOf (exec .locate { withBits patternBits with latch := { Latch.reset with bitlen := 47 } })).map (fun t => t.err) =
      some .notFound := by decide

/-! ## The formatter -/

/-- DF-2. -/
theorem test_chunk_r :
    (nextOf (exec (.chunk true) (latched 0 24 0 0 formatterState))).map (fun t => (t.outbuf, t.outlen)) =
      some ([(0, 0x80), (1, 0x40), (2, 0xC0)], 3) := by decide
/-- DF-8: MALFORMED before RANGE. -/
theorem test_chunk_malformed :
    (nextOf (exec (.chunk false) (latched 100 9 0 0 formatterState))).map (fun t => (t.outbuf, t.err)) =
      some ([], .malformed) := by decide
/-- DF-21. -/
theorem test_revb :
    (nextOf (exec .revb (latched 0 0 0 0x12345601 State.reset))).map (·.result) = some 0x80 := by decide
/-- DF-20. -/
theorem test_revb_ab :
    (nextOf (exec .revb (latched 0 0 0 0xAB State.reset))).map (·.result) = some 0xD5 := by decide
/-- DF-26: "0ff". -/
theorem test_hexb_pad_3 :
    (nextOf (exec (.hexb 3) (latched 0 0 0 0xFF State.reset))).map (fun t => (t.outbuf, t.outlen)) =
      some ([(0, 0x30), (1, 0x66), (2, 0x66)], 3) := by decide
/-- DF-28: the last byte of OUTBUF alone is too little for two digits. -/
theorem test_hexb_range :
    (nextOf (exec (.hexb 2) (latched 0 0 8191 0 State.reset))).map (fun t => (t.outbuf, t.err)) = some ([], .range) := by
  decide
/-- W9: "01:02:03". -/
theorem test_addr :
    (nextOf (exec (.addr false 2) (latched 0 24 0 0 formatterState))).map (fun t => t.outbuf.map (·.2)) =
      some [0x30, 0x31, 0x3A, 0x30, 0x32, 0x3A, 0x30, 0x33] := by decide
/-- DF-12: "1:2:3". -/
theorem test_addr_pad_0 :
    (nextOf (exec (.addr false 0) (latched 0 24 0 0 formatterState))).map (fun t => t.outbuf.map (·.2)) =
      some [0x31, 0x3A, 0x32, 0x3A, 0x33] := by decide

/-! ## The host interface -/

/-- W9: the window words after ADDR. -/
theorem test_out_window :
    (nextOf (exec (.addr false 2) (latched 0 24 0 0 formatterState))).map
      (fun t => (readWord 0x8000 t, readWord 0x8004 t)) = some (0x303A3130, 0x33303A32) := by decide
/-- 20_memory R77: the earliest bit is bit 0 of the word. -/
theorem test_bit_window : readWord 0x4000 formatterState = 0x00C04080 := by decide
/-- DE-6. -/
theorem test_acknowledge :
    (nextOf (writeWord 0x01C 0x08 { State.reset with irqStatus := 0x0C })).map (·.irqStatus) = some 0x04 := by decide
/-- DE-4: a command written while busy is dropped. -/
theorem test_busy_drop :
    (nextOf (writeWord 0x014 0 { State.reset with busy := true })).map (fun t => (t.irqStatus, t.busy)) =
      some (0x10, true) := by decide
/-- The command written in a cycle runs in that step: SIGN of -100 (41 R143, example). -/
theorem test_step_runs_sign :
    (nextOf (step (State.withFetchWord { State.reset with opa := 0xFFFFFF9C } 32 0x10))).map (·.result) =
      some 0xFFFFFFFF := by decide
/-- DE-7: a completion and a clearing write in one cycle leave `CMD_DONE` set. -/
theorem test_set_wins :
    (nextOf (step
      { State.reset with
        busy := true, irqStatus := 0x04, latch := loadLatch 0x20 State.reset,
        inputs := [{ rst := false, sValid := false, complete := true, host := some (.write 0x01C 0x04) }] })).map
      (fun t => t.irqStatus.getLsbD 2) = some true := by decide

/-! ## Witnesses: for each statement with hypotheses, a state and operands that meet them, clause by clause -/

/-- A busy engine with this command word latched. -/
def busyWith (w : Word) (s : State) : State := { s with busy := true, latch := loadLatch w s }

/-- The reset state in this decoder state. -/
def inState (d : DState) : State := { State.reset with dstate := d }

/-- DecodeOfEncodeIsTheCommand: a well-formed command, `PAD` at its greatest. -/
theorem witness_wellFormed : Instr.wellFormed (.addr true 7) = true := by decide

/-- IgnoredBitsDoNotMatter: a word and another that differs from it in an ignored bit only. -/
theorem witness_ignored_bits :
    decodeWord 0x00000020 = .ok .locate ∧ (0x00000E20 : Word) &&& usedBits .locate = 0x00000020 &&& usedBits .locate ∧
    (0x00000E20 : Word) ≠ 0x00000020 := ⟨rfl, by decide, by decide⟩

/-- ReservedWordCompletesWithBadCmd: a reserved bit, and a reserved opcode beside a row of the table. -/
theorem witness_reserved_word :
    State.reset.busy = false ∧ 4096 ≤ (0x00001000 : Word).toNat ∧
    (0x00000034 : Word).toNat % 256 ∉ [0x00, 0x01, 0x02, 0x10, 0x11, 0x12, 0x20, 0x30, 0x31, 0x32, 0x33] := by decide

/-- StepRunsTheDecodedCommand: a single-cycle word, a multi-cycle word, a completion. -/
theorem witness_step_single :
    ({ State.reset with inputs := [commandCycle 0x10] } : State).inputs = commandCycle 0x10 :: [] ∧
    State.reset.busy = false ∧ decodeWord 0x10 = .ok .sign ∧ Instr.isMultiCycle .sign = false := ⟨rfl, rfl, rfl, rfl⟩
theorem witness_step_multi :
    ({ State.reset with inputs := [commandCycle 0x20] } : State).inputs = commandCycle 0x20 :: [] ∧
    State.reset.busy = false ∧ decodeWord 0x20 = .ok .locate ∧ Instr.isMultiCycle .locate = true := ⟨rfl, rfl, rfl, rfl⟩
theorem witness_step_completion :
    ({ busyWith 0x20 State.reset with inputs := [completionCycle] } : State).inputs = completionCycle :: [] ∧
    (busyWith 0x20 State.reset).busy = true ∧ latchedInstr (busyWith 0x20 State.reset).latch = some .locate := by decide

/-- StepRunsTheDecodedCommand: a cycle with a beat, a completion and a write; a last beat in RUN with a LOCATE latched. -/
theorem witness_step_order :
    step
        { busyWith 0x20 (inState .run) with
          source := [beat 0 true],
          inputs := [{ rst := false, sValid := true, complete := true, host := some (.write 0x048 5) }] } =
      andThen (completionEvent (takeBeat { busyWith 0x20 (inState .run) with source := [beat 0 true] }))
        (hostAccess (some (.write 0x048 5))) ∧
    (takeBeat { busyWith 0x20 (inState .run) with source := [beat 0 true] }).busy = true ∧
    latchedInstr (takeBeat { busyWith 0x20 (inState .run) with source := [beat 0 true] }).latch = some .locate :=
  ⟨rfl, by decide, by decide⟩
/-- 20_memory R83: the LOCATE that completes in the cycle of the last beat in RUN sees IDLE, so no CONFLICT. -/
theorem test_beat_before_completion :
    (nextOf (step
      { busyWith 0x20 (inState .run) with
        source := [beat 0 true],
        inputs := [{ rst := false, sValid := true, complete := true, host := none }] })).map
      (fun t => (t.dstate, t.busy, t.err)) = some (.idle, false, .notFound) := by decide

/-- EngineHolds, of a busy engine (EveryStepAnswers, DecoderStateMovesOnlyByTheTable, the StepKeeps statements). -/
theorem witness_engine_holds : EngineHolds (busyWith 0x533 State.reset) := fun _ => ⟨.addr true 2, by decide, by decide⟩

/-- IssuedAs: for each opcode a word of it, one with a reserved bit, and a free and a busy engine. -/
theorem witness_issued_as :
    (∀ op ∈ [0x00, 0x01, 0x02, 0x10, 0x11, 0x12, 0x20, 0x30, 0x31, 0x32, 0x33],
      (BitVec.ofNat 32 (op + 0xF00)).toNat % 256 = op ∧ (BitVec.ofNat 32 (op + 0xF00)).toNat < 4096 ∧
      (BitVec.ofNat 32 (op + 0x1000)).toNat % 256 = op ∧ 4096 ≤ (BitVec.ofNat 32 (op + 0x1000)).toNat) ∧
    State.reset.busy = false ∧ (busyWith 0x20 State.reset).busy = true := by decide

/-- ClearRestoresInitialState: a cycle with a beat and a write of CLEAR to `CMD`. -/
theorem witness_clear_cycle :
    ({ inState .run with
        inputs := [{ rst := false, sValid := true, complete := false, host := some (.write 0x014 1) }] } : State).inputs =
      { rst := false, sValid := true, complete := false, host := some (.write 0x014 1) } :: [] := by decide

/-- DecodeStartsACapture, LocateFindsTheLeftmostMatch, the thresholds: each decoder state. -/
theorem witness_dstates :
    State.reset.dstate = .idle ∧ (inState .run).dstate ≠ .idle ∧ (inState .drain).dstate ≠ .idle ∧
    (inState .drain).dstate ≠ .run ∧ (inState .run).dstate = .run := by decide

/-- ClampBoundsTheOperand: the bounds equal, and one apart the wrong way. -/
theorem witness_clamp :
    (latchedOps 7 3 3 State.reset).latch.opb.toInt ≤ (latchedOps 7 3 3 State.reset).latch.opc.toInt ∧
    (latchedOps 7 4 3 State.reset).latch.opc.toInt < (latchedOps 7 4 3 State.reset).latch.opb.toInt := by decide

/-- SignOfDefaultClampIsSign: OPA = 5 under the default bounds, through the three runs. -/
theorem witness_default_clamp :
    (latchedOps 5 0xFFFFFFFF 1 State.reset).latch.opb = 0xFFFFFFFF ∧
    (latchedOps 5 0xFFFFFFFF 1 State.reset).latch.opc = 0x00000001 ∧
    ∃ t u v, exec .clamp (latchedOps 5 0xFFFFFFFF 1 State.reset) = .next t ∧
      exec .sign { t with latch := { t.latch with opa := t.result } } = .next u ∧
      exec .sign (latchedOps 5 0xFFFFFFFF 1 State.reset) = .next v := ⟨rfl, rfl, _, _, _, rfl, rfl, rfl⟩

/-- LocateFindsTheLeftmostMatch, LeftmostMatch: DL-2, the pattern alone, at index 0. -/
theorem witness_leftmost_first : LeftmostMatch (withBits patternBits) (withBits patternBits).latch.bitlen 0 := by
  refine ⟨by decide, ?_, fun j hj => absurd hj (by omega)⟩
  unfold PatternStandsAt
  decide

/-- W10's BitString. -/
def w10 : State := withBits ([true, true, true, true] ++ patternBits ++ bitsOf 0x0F ++ [false, false, false, false])

/-- LocateFindsTheLeftmostMatch, LeftmostMatch: W10, a match at index 4 and none before it. -/
theorem witness_leftmost_later : w10.dstate ≠ .run ∧ LeftmostMatch w10 w10.latch.bitlen 4 := by
  refine ⟨by decide, by decide, ?_, ?_⟩ <;> unfold PatternStandsAt <;> decide

/-- LocateFindsTheLeftmostMatch, ErrorCodePriority: DL-8, no match within 80 bits. -/
theorem witness_no_match :
    (withBits (List.replicate 10 (bitsOf 0xAA)).flatten).dstate ≠ .run ∧
    ∀ k, k + 48 ≤ (withBits (List.replicate 10 (bitsOf 0xAA)).flatten).latch.bitlen →
      ¬ PatternStandsAt (withBits (List.replicate 10 (bitsOf 0xAA)).flatten) k := by
  have hlen : (withBits (List.replicate 10 (bitsOf 0xAA)).flatten).latch.bitlen = 80 := by decide
  have h : ∀ k, k < 33 → ¬ PatternStandsAt (withBits (List.replicate 10 (bitsOf 0xAA)).flatten) k := by
    unfold PatternStandsAt
    decide
  exact ⟨by decide, fun k hk => h k (by omega)⟩

/-- ChunkStoresTheOctets, AddrStoresTheJoinedText, the clauses outside RUN: MALFORMED; a source one octet too long; a source up
to the last bit with a destination one byte short; the same that fits. -/
theorem witness_chunk :
    ((latched 0 9 0 0 formatterState).dstate ≠ .run ∧ (latched 0 9 0 0 formatterState).latch.len.toNat % 8 ≠ 0) ∧
    ((latched 1 24 0 0 formatterState).latch.len.toNat % 8 = 0 ∧
      bitLen (latched 1 24 0 0 formatterState) <
        (latched 1 24 0 0 formatterState).latch.src.toNat + (latched 1 24 0 0 formatterState).latch.len.toNat) ∧
    ((latched 0 24 8190 0 formatterState).latch.src.toNat + (latched 0 24 8190 0 formatterState).latch.len.toNat ≤
        bitLen (latched 0 24 8190 0 formatterState) ∧
      (latched 0 24 8190 0 formatterState).params.outbufDepth <
        (latched 0 24 8190 0 formatterState).latch.dst.toNat + (latched 0 24 8190 0 formatterState).latch.len.toNat / 8) ∧
    ((latched 0 24 8189 0 formatterState).latch.src.toNat + (latched 0 24 8189 0 formatterState).latch.len.toNat ≤
        bitLen (latched 0 24 8189 0 formatterState) ∧
      (latched 0 24 8189 0 formatterState).latch.dst.toNat + (latched 0 24 8189 0 formatterState).latch.len.toNat / 8 ≤
        (latched 0 24 8189 0 formatterState).params.outbufDepth) := by decide

/-- HexbStoresTheText: two digits that fit at the end of OUTBUF, and two that do not. -/
theorem witness_hexb :
    (latched 0 0 8190 0xAB State.reset).latch.dst.toNat
        + hexWidth ((latched 0 0 8190 0xAB State.reset).latch.opa.toNat % 256) 2 ≤
      (latched 0 0 8190 0xAB State.reset).params.outbufDepth ∧
    (latched 0 0 8191 0xAB State.reset).params.outbufDepth <
      (latched 0 0 8191 0xAB State.reset).latch.dst.toNat
        + hexWidth ((latched 0 0 8191 0xAB State.reset).latch.opa.toNat % 256) 2 := by decide

/-- AddrStoresTheJoinedText: DF-10's eight characters end at OUTBUF's end, and DF-15 needs one byte more than there is. -/
theorem witness_addr :
    (latched 0 24 8184 0 formatterState).latch.dst.toNat + 8 ≤ (latched 0 24 8184 0 formatterState).params.outbufDepth ∧
    (latched 0 16 8188 0 formatterState).params.outbufDepth <
      (latched 0 16 8188 0 formatterState).latch.dst.toNat + 5 := by decide

/-- AddrLengthAtPadTwo: an ADDR that succeeds. -/
theorem witness_addr_ok : ∃ t, exec (.addr false 2) (latched 0 24 0 0 formatterState) = .next t ∧ t.err = .ok := by
  refine ⟨_, rfl, ?_⟩
  decide

/-- ErrorCodePriority: a word that is no command, issued; a source range past the BitString in IDLE. -/
theorem witness_bad_issue :
    State.reset.busy = false ∧ decodeWord 0x1000 = .error .reservedBits ∧ ∃ t, issue 0x1000 State.reset = .next t :=
  ⟨rfl, rfl, _, rfl⟩

/-- ErrorCodePriority: a CHUNK and a HEXB whose source fits and whose output does not. -/
theorem witness_priority_destination :
    (∃ t, exec (.chunk false) (latched 0 24 8190 0 formatterState) = .next t ∧ t.err = .range) ∧
    bitLen (latched 0 24 8190 0 formatterState) = 24 ∧
    ∃ t, exec (.hexb 2) (latched 0 0 8191 0 State.reset) = .next t ∧ t.err = .range := by
  refine ⟨⟨_, rfl, ?_⟩, ?_, _, rfl, ?_⟩ <;> decide

/-- ErrorCodePriority: the octets of an ADDR. -/
theorem witness_octets : OctetsOf formatterState 0 3 false [0x01, 0x02, 0x03] :=
  ⟨rfl, fun i k hi hk =>
    (by decide : ∀ i, i < 3 → ∀ k, k < 8 →
      (([0x01, 0x02, 0x03] : List Byte).getD i 0).getLsbD (7 - k) = bitRead formatterState (0 + 8 * i + k)) i hi k hk⟩

/-- FailedCommandWritesOnlyItsReport: a command that fails, and NOTFOUND. -/
theorem witness_failed :
    (∃ t, exec .decode (inState .run) = .next t ∧ t.err ≠ .ok) ∧
    (∃ t, exec .locate State.reset = .next t ∧ t.err = .notFound) := by
  refine ⟨⟨_, rfl, ?_⟩, ⟨_, rfl, ?_⟩⟩ <;> decide

/-- CommandFrame: a legal build, and a command that stores with a byte outside the stored ones. -/
theorem witness_frame :
    State.reset.params.Legal ∧ ∃ t, exec (.hexb 2) (latched 0 0 5 0xAB State.reset) = .next t ∧
      4 < (latched 0 0 5 0xAB State.reset).latch.dst.toNat ∧
      (latched 0 0 5 0xAB State.reset).latch.dst.toNat + t.outlen.toNat ≤ 7 := by
  refine ⟨by decide, _, rfl, ?_, ?_⟩ <;> decide

/-- BeatsAreAcceptedOutsideIdle: a beat at the source in RUN. -/
theorem witness_beat :
    (inState .run).dstate ≠ .idle ∧
    ({ inState .run with source := [beat 100 true] } : State).source = beat 100 true :: [] := by decide

/-- RunBeatTerminates: the least gap and the least number of bits. -/
theorem witness_terminates :
    dv11.dstate = .run ∧ dv11.gapThr.toNat < min (dv11.gapcnt.toNat + 1) 0xFFFFFFFF ∧ 6 ≤ dv11.bitcnt.toNat := by decide

/-- RunBeatCommits: the least distance, with room in BITBUF; and BITBUF full. -/
theorem witness_commits :
    ({ dv6 with tcnt := 69, gapcnt := 69 } : State).dstate = .run ∧
    ¬ (({ dv6 with tcnt := 69, gapcnt := 69 } : State).gapThr.toNat < min (69 + 1) 0xFFFFFFFF ∧ 6 ≤ dv6.bitcnt.toNat) ∧
    dv6.edgeThr.toNat ≤ min (({ dv6 with tcnt := 69, gapcnt := 69 } : State).tcnt.toNat + 1) 0xFFFFFFFF ∧
    dv6.lastpol ≠ beatPolarity dv6.params (beat 100 false) ∧ dv6.bitcnt.toNat < dv6.params.bitbufDepth ∧
    dv6.params.bitbufDepth ≤ ({ dv6 with bitcnt := 16384 } : State).bitcnt.toNat ∧
    ¬ (dv6.gapThr.toNat < min (dv6.gapcnt.toNat + 1) 0xFFFFFFFF ∧ 6 ≤ ({ dv6 with bitcnt := 16384 } : State).bitcnt.toNat) := by
  decide

/-- 42 R160: the index is `BITCNT`, saturated too. -/
theorem test_commit_saturated :
    (acceptBeat (beat 100 false) { dv6 with bitcnt := 0xFFFFFFFF }).streamB.map (fun x => x.index) = [0xFFFFFFFF] ∧
    (acceptBeat (beat 100 false) { dv6 with bitcnt := 0xFFFFFFFF }).bitcnt = 0xFFFFFFFF := by decide
/-- RunBeatCommits: `BITCNT` saturated. -/
theorem witness_late_index :
    ({ dv6 with bitcnt := 0xFFFFFFFF } : State).dstate = .run ∧
    ¬ (dv6.gapThr.toNat < min (dv6.gapcnt.toNat + 1) 0xFFFFFFFF ∧
      6 ≤ ({ dv6 with bitcnt := 0xFFFFFFFF } : State).bitcnt.toNat) := by decide

/-- RunBeatCommits, RunBeatPasses, AlignStepOfAnAcceptedBeat: the builds at the least and the greatest widths are legal. -/
theorem witness_lanes :
    Params.Legal { Params.default with vw := 2, tagw := 0 } ∧ Params.Legal { Params.default with vw := 32, tagw := 64 } := by
  decide
/-- 30_encoding R107: with VW = 16 the code 0x8000 is negative and 0x7FFF positive, whatever stands above lane 15. -/
theorem test_voltage_lanes :
    ([0x00008000, 0xFFFF7FFF, 0x12340000].map fun v =>
      (beatPolarity Params.default { beat 0 false with voltage := v })) = [.neg, .pos, .zero] := by decide
/-- 20_memory R75: with VW = 2 and TAGW = 3 the streams carry two and three lanes. -/
theorem test_copied_lanes :
    wiredVoltage { Params.default with vw := 2 } { voltage := 0xFFFFFFFE, tag := 0, last := false } = 2 ∧
    wiredTag { Params.default with tagw := 3 } { voltage := 0, tag := 0xFD, last := false } = 5 := by decide

/-- RunBeatPasses: one sample too early for an edge; and no change of polarity. -/
theorem witness_passes :
    (inState .run).dstate = .run ∧
    ¬ ((inState .run).gapThr.toNat < min ((inState .run).gapcnt.toNat + 1) 0xFFFFFFFF ∧ 6 ≤ (inState .run).bitcnt.toNat) ∧
    min (({ inState .run with tcnt := 68 } : State).tcnt.toNat + 1) 0xFFFFFFFF < (inState .run).edgeThr.toNat ∧
    (inState .run).lastpol = beatPolarity (inState .run).params (beat (-100) false) := by decide

/-- AlignStepOfAnAcceptedBeat: a beat that commits a bit, one that commits none; `ALIGN_EN` 1 and 0. -/
theorem witness_align :
    (∃ x, (acceptBeat (beat 100 false) dv6).streamB = x :: dv6.streamB) ∧
    (acceptBeat (beat 100 false) da1).streamB = da1.streamB ∧ da1.dstate ≠ .idle ∧ dv6.dstate ≠ .idle ∧
    dv6.alignEn = true ∧ ({ dv6 with alignEn := false } : State).alignEn = false := by
  refine ⟨⟨_, rfl⟩, ?_⟩
  decide

/-- DecoderStateMovesOnlyByTheTable: no beat and a beat at the source; a host access that moves `DSTATE` by DECODE; one by
CLEAR. -/
theorem witness_dstate_moves :
    State.reset.source = [] ∧ ({ inState .run with source := [beat 100 true] } : State).source = beat 100 true :: [] ∧
    (∃ t, hostAccess (some (.write 0x014 0x02)) State.reset = .next t ∧ t.dstate ≠ State.reset.dstate) ∧
    (0x014 : BitVec 16).toNat / 4 = 5 ∧ decodeWord 0x02 = .ok .decode ∧ decodeWord 0x01 = .ok .clear ∧
    ∃ t, hostAccess (some (.write 0x014 0x01)) (inState .drain) = .next t ∧ t.dstate ≠ (inState .drain).dstate := by
  refine ⟨rfl, rfl, ⟨_, rfl, ?_⟩, ?_, rfl, rfl, _, rfl, ?_⟩ <;> decide

/-- ResetRegisterView, BitbufWindowShowsTheBitString, OutbufWindowShowsTheBytes: the ends of the windows, a stored bit. -/
theorem witness_windows :
    0x4000 ≤ (0x4000 : BitVec 16).toNat ∧ (0x7FFF : BitVec 16).toNat < 0x8000 ∧ 4095 < 4096 ∧ 8191 < 8192 ∧
    23 < bitLen formatterState ∧ Params.default.Legal := by decide

/-- ResetCycleRestoresEverything: a cycle with reset asserted and a read; one without an access. -/
theorem witness_reset_cycle :
    ∃ c d : Cycle, c.rst = true ∧ c.host = some (.read 0x8000) ∧ d.rst = true ∧ ∀ offset, d.host ≠ some (.read offset) :=
  ⟨{ rst := true, sValid := true, complete := true, host := some (.read 0x8000) },
    { rst := true, sValid := true, complete := true, host := none }, rfl, rfl, rfl, fun _ h => by cases h⟩

/-- ReadsHaveNoSideEffects, AcknowledgeClearsAndSetWins: a cycle with one access. -/
theorem witness_host_cycle :
    ({ State.reset with inputs := [hostCycle (.read 0x010)] } : State).inputs = hostCycle (.read 0x010) :: [] := by decide

/-- AbsentPlacesIgnoreWrites: the ends of the reserved range, and a busy engine. -/
theorem witness_reserved_offsets :
    0x070 ≤ (0x070 : BitVec 16).toNat ∧ (0x3FFF : BitVec 16).toNat < 0x4000 ∧ (0x010 : BitVec 16).toNat / 4 = 4 ∧
    (busyWith 0x20 State.reset).busy = true := by decide

/-- ThresholdsAreWrittenOnlyInIdle: a step that leaves the decoder outside IDLE, with a threshold write in it. -/
theorem witness_locked_step :
    ∃ t, step { inState .run with inputs := [hostCycle (.write 0x024 3)] } = .next t ∧ t.dstate ≠ .idle := by
  refine ⟨_, rfl, ?_⟩
  decide

/-- AcknowledgeClearsAndSetWins: a completion and an acknowledge in one cycle, with a busy engine. -/
theorem witness_set_wins :
    (busyWith 0x20 State.reset).busy = true ∧ EngineHolds (busyWith 0x20 State.reset) :=
  ⟨rfl, fun _ => ⟨.locate, by decide, by decide⟩⟩
/-- AcknowledgeClearsAndSetWins: DV-11 before the terminating beat, with a write of ones in the cycle of that beat. -/
theorem witness_set_wins_beat :
    ∃ s : State,
      s.inputs = { rst := false, sValid := true, complete := false, host := some (.write 0x01C 0x1F) } :: [] ∧
      s.source = beat 0 true :: [] ∧ s.dstate ≠ .idle ∧ EngineHolds s ∧
      s.gapThr.toNat < min (s.gapcnt.toNat + 1) 0xFFFFFFFF ∧ 6 ≤ s.bitcnt.toNat :=
  ⟨{ dv11 with
      source := [beat 0 true],
      inputs := [{ rst := false, sValid := true, complete := false, host := some (.write 0x01C 0x1F) }] },
    rfl, rfl, by decide, fun h => absurd h (by decide), by decide, by decide⟩
/-- AcknowledgeClearsAndSetWins: the same with a busy engine and a completion in the cycle. -/
theorem witness_set_wins_both :
    ∃ s : State,
      s.inputs = { rst := false, sValid := true, complete := true, host := some (.write 0x01C 0x1F) } :: [] ∧
      s.source = beat 0 true :: [] ∧ s.dstate ≠ .idle ∧ s.busy = true ∧ EngineHolds s :=
  ⟨{ busyWith 0x20 dv11 with
      source := [beat 0 true],
      inputs := [{ rst := false, sValid := true, complete := true, host := some (.write 0x01C 0x1F) }] },
    rfl, rfl, by decide, rfl, fun _ => ⟨.locate, by decide, by decide⟩⟩
/-- 60 R234, R238: `CMD_DONE` and `CMD_ERR` of a LOCATE that finds nothing survive it beside the beat's two bits. -/
theorem test_set_wins_both :
    (nextOf (step
      { busyWith 0x20 dv11 with
        source := [beat 0 true], irqStatus := 0x1F,
        inputs := [{ rst := false, sValid := true, complete := true, host := some (.write 0x01C 0x1F) }] })).map
      (fun t => (t.irqStatus, t.err)) = some (0x0F, .notFound) := by decide
/-- 60 R238: `DEC_TERM` and `DEC_DONE` of that beat survive the write; what was set before does not. -/
theorem test_set_wins_beat :
    (nextOf (step
      { dv11 with
        source := [beat 0 true], irqStatus := 0x1F,
        inputs := [{ rst := false, sValid := true, complete := false, host := some (.write 0x01C 0x1F) }] })).map
      (fun t => t.irqStatus) = some 0x03 := by decide

/-- ParamsReportsTheBuild: the greatest legal build. -/
theorem witness_params : ({ vw := 32, tagw := 64, bbLog2 := 17, obLog2 := 15 } : Params).Legal := by decide

/-- ThresholdFormulaIsExact: a denominator. -/
theorem witness_threshold : 0 < 1 := by decide

/-- StepKeepsLocated, all its hypotheses on the state together: W10 after LOCATE. Other invariants hold there too. -/
theorem witness_located :
    EngineHolds { w10 with found := true, frameOffset := 52 } ∧ LatchedLength { w10 with found := true, frameOffset := 52 } ∧
    Located { w10 with found := true, frameOffset := 52 } ∧ CountersAgree w10 ∧ CaptureFlags w10 ∧ OverflowMeaning w10 := by
  refine ⟨fun h => absurd h (by decide), fun h => absurd h (by decide),
    ⟨fun h => ?_, fun _ => ⟨by decide, 4, ?_, by decide⟩⟩, rfl, by unfold CaptureFlags; decide, by
    unfold OverflowMeaning; decide⟩
  · cases h
  · exact witness_leftmost_later.2

/-- BuffersCanonical and BitsStored hold where both buffers hold something. -/
theorem witness_buffers :
    BuffersCanonical { formatterState with outbuf := [(0, 0x61), (8191, 0x62)] } ∧ BitsStored formatterState := by
  refine ⟨by unfold BuffersCanonical; decide, ?_⟩
  have hlen : bitLen formatterState = 24 := by decide
  have h : ∀ i, i < 24 → cellsGet i formatterState.bitbuf ≠ none := by decide
  exact fun i hi => h i (by omega)

/-- AlignAgrees holds in a capture with a committed bit. -/
theorem witness_align_agrees : AlignAgrees dv6 :=
  ⟨by decide, by decide, by decide, by decide, by decide⟩

/-- The clean waveform of the bits 1, 0 at period 6 as a capture (95, notation `IEEE`). -/
def cleanBeats : List Beat :=
  [beat (-100) false, beat (-100) false, beat (-100) false, beat 100 false, beat 100 false, beat 100 false,
   beat 100 false, beat 100 false, beat 100 false, beat (-100) false, beat (-100) false, beat (-100) true]

/-- The state DECODE leaves, with that capture at the source. -/
def cleanStart : State :=
  { State.reset with
    dstate := .run, edgeThr := 5, gapThr := 9, source := cleanBeats, inputs := List.replicate 12 beatCycle }

/-- CaptureIsTheSourcesDecode, CaptureIsTheSourcesAlign, CommitsAreSpaced, CleanWaveformIsRecovered: all their hypotheses together. -/
theorem witness_capture :
    FreshRun cleanStart ∧ cleanStart.alignEn = true ∧ IsCapture cleanBeats ∧ cleanBeats.length < 2 ^ 32 ∧
    Delivers cleanBeats cleanStart ∧ cleanStart.edgeThr.toNat = edgeThrFor 6 1 ∧ cleanStart.gapThr.toNat = gapThrFor 6 1 ∧
    polarities cleanStart.params cleanBeats = cleanWave [true, false] 6 := by
  refine ⟨by unfold FreshRun; decide, rfl, ⟨cleanBeats.dropLast, beat (-100) true, by decide, by decide, by decide⟩, by decide,
    ⟨⟨[], by decide⟩, ⟨[], by decide⟩⟩, by decide, by decide, by decide⟩

/-- LatchedLength, of a busy engine with every bit of its BitString latched. -/
theorem witness_latched_length : LatchedLength { formatterState with busy := true } := fun _ => by decide

/-- IndicesAreReal, of a bit and of an absent annotation. -/
theorem witness_indices :
    dv6.bitcnt ≠ 0xFFFFFFFF ∧ IndicesAreReal
      { dv6 with
        streamB := [{ value := true, index := 0, sidx := 150, tag := 7 }]
        streamA := [{ sidx := 0, tag := 7, voltage := 0, present := false, bitIndex := 0xFFFFFFFF, bitValue := false }] } := by
  unfold IndicesAreReal
  exact ⟨by decide, by decide⟩

/-- CommitsAreSpaced: DV-6 before its second commit, and a capture's first commit at the least index. -/
theorem witness_sample_distance :
    SampleDistance { dv6 with streamB := [{ value := true, index := 0, sidx := 150, tag := 7 }] } ∧
    SampleDistance { inState .run with tcnt := 69, sidx := 69 } ∧
    ∃ x, (acceptBeat (beat 100 false) { inState .run with tcnt := 69, sidx := 69 }).streamB = x :: [] := by
  refine ⟨fun _ _ => ⟨fun h => absurd h (by decide), fun _ => ⟨_, _, rfl, by decide⟩⟩,
    fun _ _ => ⟨fun _ => rfl, fun h => absurd rfl h⟩, _, rfl⟩

/-- StaleBitsAreNeverObservable: two states that differ in a stale bit. -/
theorem witness_stale :
    LatchedLength State.reset ∧ SameButStale State.reset { State.reset with bitbuf := [(0, true)] } := by
  refine ⟨fun h => absurd h (by decide), rfl, fun i hi => absurd hi ?_⟩
  have h : bitLen State.reset = 0 := by decide
  omega

end Sys2Proof.Tests
end

section
/-! PROOFS. A capture delivered one beat a cycle is one pass of the source's decode (42 R150, R151, R165).
The schedule: `run_capture_keeps` turns "every accepted beat keeps it" into "the capture ends with it".
The simulation: `TracksDecode` relates the machine in mid-capture to what the source's algorithm has committed and has still to
commit. -/

namespace Sys2Proof.Machine

/-- The start of a cycle in which the source hands over its first beat and keeps `rest`. -/
def handOver (rest : List Beat) (s : State) : State := { beginCycle s with source := rest }

/-- A cycle that offers one beat and holds nothing else. -/
theorem step_beatCycle {s : State} {more : List Cycle} (h : s.inputs = beatCycle :: more) :
    step s = .next (takeBeat (beginCycle s)) := by
  simp [step, clockCycle, nextCycle, h, beatCycle, runCycle, andThen, hostAccess]

/-- Outside IDLE the beat the source offers is accepted (20_memory R74). -/
theorem takeBeat_beginCycle {s : State} {b : Beat} {rest : List Beat} (hs : s.source = b :: rest) (hd : s.dstate ≠ .idle) :
    takeBeat (beginCycle s) = acceptBeat b (handOver rest s) := by
  cases hd' : s.dstate <;> simp_all [takeBeat, sReady, beginCycle, handOver]

/-- A run takes the first step and goes on. -/
theorem run_succ {M : Host.Core} {s t : M.State} (n : Nat) (h : M.step s = .next t) : M.run (n + 1) s = M.run n t := by
  simp only [Host.Core.run, h]

@[simp] theorem acceptBeat_params (b : Beat) (s : State) : (acceptBeat b s).params = s.params := by
  apply acceptBeat_keeps (fun t => t.params = s.params) <;> intros <;> simp

@[simp] theorem acceptBeat_source (b : Beat) (s : State) : (acceptBeat b s).source = s.source := by
  apply acceptBeat_keeps (fun t => t.source = s.source) <;> intros <;> simp

@[simp] theorem acceptBeat_inputs (b : Beat) (s : State) : (acceptBeat b s).inputs = s.inputs := by
  apply acceptBeat_keeps (fun t => t.inputs = s.inputs) <;> intros <;> simp

/-- The beat flagged last ends the capture (42 R163). -/
theorem acceptBeat_last {b : Beat} {s : State} (hl : b.last = true) (hd : s.dstate ≠ .idle) :
    (acceptBeat b s).dstate = .idle ∧ (acceptBeat b s).done = true := by
  apply acceptBeat_keeps (fun t => t.dstate = .idle ∧ t.done = true) <;> intros <;> simp_all

/-- A beat that is not flagged last leaves the decoder in RUN or in DRAIN. -/
theorem acceptBeat_not_last {b : Beat} {s : State} (hl : b.last = false) (hd : s.dstate ≠ .idle) :
    (acceptBeat b s).dstate ≠ .idle := by
  apply acceptBeat_keeps (fun t => t.dstate ≠ .idle) <;> intros <;> simp_all

/-- The first beat of a capture is flagged exactly when it is the only one, and the others are a capture (70 R267 (c)). -/
theorem isCapture_cons {b : Beat} {todo : List Beat} (h : IsCapture (b :: todo)) :
    b.last = todo.isEmpty ∧ (todo ≠ [] → IsCapture todo) := by
  obtain ⟨front, z, heq, hfront, hz⟩ := h
  cases front with
  | nil =>
    obtain ⟨rfl, rfl⟩ : b = z ∧ todo = [] := by simpa using heq
    exact ⟨hz, fun hne => absurd rfl hne⟩
  | cons c front =>
    obtain ⟨rfl, rfl⟩ : b = c ∧ todo = front ++ [z] := by simpa using heq
    exact ⟨by simp [hfront b], fun _ => ⟨front, z, rfl, fun x hx => hfront x (by simp [hx]), hz⟩⟩

/-- In the cycles that deliver a capture: what the environment's queues and the start of a cycle leave alone, and every accepted
beat keeps, holds at the end of the capture, where the decoder is in IDLE and the source has given exactly the capture. -/
theorem run_capture_keeps (Inv : List Beat → State → Prop)
    (hcycle : ∀ todo rest s, Inv todo s → Inv todo (handOver rest s))
    (hbeat : ∀ b todo s, s.dstate ≠ .idle → b.last = todo.isEmpty → Inv (b :: todo) s → Inv todo (acceptBeat b s))
    {bs : List Beat} {s : State} (hc : IsCapture bs) (hdel : Delivers bs s) (hd : s.dstate ≠ .idle) (h : Inv bs s) :
    ∃ t, Host.Core.run core bs.length s = .next t ∧ Inv [] t ∧ t.dstate = .idle ∧ t.done = true ∧
      s.source = bs ++ t.source := by
  induction bs generalizing s with
  | nil => obtain ⟨front, z, heq, -⟩ := hc; simp at heq
  | cons b todo ih =>
    obtain ⟨⟨rest, hsrc⟩, more, hin⟩ := hdel
    obtain ⟨hlast, hcap⟩ := isCapture_cons hc
    have hstep : step s = .next (acceptBeat b (handOver (todo ++ rest) s)) :=
      (step_beatCycle hin).trans (congrArg _ (takeBeat_beginCycle hsrc hd))
    have hd' : (handOver (todo ++ rest) s).dstate ≠ .idle := hd
    have hinv := hbeat b todo _ hd' hlast (hcycle _ (todo ++ rest) s h)
    rw [List.length_cons, run_succ (M := core) todo.length hstep]
    cases todo with
    | nil =>
      obtain ⟨hidle, hdone⟩ := acceptBeat_last hlast hd'
      exact ⟨_, rfl, hinv, hidle, hdone, by simpa [handOver] using hsrc⟩
    | cons b' todo =>
      have hdel' : Delivers (b' :: todo) (acceptBeat b (handOver (b' :: todo ++ rest) s)) :=
        ⟨⟨rest, by simp [handOver]⟩, more, by simp [handOver, beginCycle, hin]⟩
      obtain ⟨t, hrun, ht, hidle, hdone, hleft⟩ :=
        ih (hcap (by simp)) hdel' (acceptBeat_not_last hlast hd') hinv
      have hleft' : b' :: todo ++ rest = b' :: todo ++ t.source := by simpa [handOver] using hleft
      exact ⟨t, hrun, ht, hidle, hdone, by rw [hsrc, List.cons_append, hleft']; rfl⟩

/-- The bits the source's decode has still to commit, from the machine's registers, on the beats that are still to come. -/
def pendingCommits (s : State) (todo : List Beat) : List (Bool × Nat) :=
  match s.dstate with
  | .run =>
    sourceDecodeFrom s.edgeThr.toNat s.gapThr.toNat s.tcnt.toNat s.gapcnt.toNat s.bitcnt.toNat s.lastpol s.sidx.toNat
      (polarities s.params todo)
  | .idle | .drain => []

/-- One more sample does not saturate a count and does not wrap `SIDX` (42 R151). -/
structure HasRoom (s : State) : Prop where
  tcnt : s.tcnt.toNat < 0xFFFFFFFF
  gapcnt : s.gapcnt.toNat < 0xFFFFFFFF
  bitcnt : s.bitcnt.toNat < 0xFFFFFFFF
  sidx : s.sidx.toNat < 0xFFFFFFFF

@[simp] theorem satSucc32_toNat_le (v : Word) : (satSucc32 v).toNat ≤ v.toNat + 1 := by
  rw [satSucc32_toNat]; exact Nat.min_le_left _ _

theorem satSucc32_toNat_of_lt {v : Word} (h : v.toNat < 0xFFFFFFFF) : (satSucc32 v).toNat = v.toNat + 1 := by
  rw [satSucc32_toNat]; omega

theorem toNat_succ_of_lt {v : Word} (h : v.toNat < 0xFFFFFFFF) : (v + 1).toNat = v.toNat + 1 :=
  BitVec.toNat_add_of_lt (show v.toNat + 1 < 2 ^ 32 by omega)

/-- With room the saturated counts decide termination as the source's unbounded times do (42 R151, R158). -/
theorem terminates_iff {s : State} (h : HasRoom s) :
    terminates (advanceCounts s) = true ↔ s.gapThr.toNat < s.gapcnt.toNat + 1 ∧ Config.minBits ≤ s.bitcnt.toNat := by
  have hgap := h.gapcnt
  rw [terminates_advance, Nat.min_eq_left (by omega)]
  rfl

/-- With room the saturated counts qualify an edge as the source's unbounded times do (42 R151, R159). -/
theorem qualifies_iff {s : State} (h : HasRoom s) (p : Polarity) :
    qualifies p (advanceCounts s) = true ↔ s.edgeThr.toNat ≤ s.tcnt.toNat + 1 ∧ s.lastpol ≠ p := by
  have htcnt := h.tcnt
  rw [qualifies_advance, Nat.min_eq_left (by omega)]

@[simp] theorem pendingCommits_nil (s : State) : pendingCommits s [] = [] := by
  unfold pendingCommits
  split <;> rfl

theorem pendingCommits_drain {s : State} (h : s.dstate = .drain) (todo : List Beat) : pendingCommits s todo = [] := by
  simp [pendingCommits, h]

/-- The end of the capture leaves nothing pending that was not so before: only its last beat comes with no beat after it. -/
theorem pendingCommits_finishBeat {b : Beat} {todo : List Beat} (hl : b.last = todo.isEmpty)
    (c : Option (Bool × Word)) (s : State) :
    pendingCommits (finishBeat c b s) todo = pendingCommits { s with sidx := s.sidx + 1 } todo := by
  cases todo with
  | nil => simp
  | cons b' todo =>
    have hl : b.last = false := hl
    simp [pendingCommits, hl]

/-- Source step 3 on the machine's registers: after a termination nothing is committed (42 R158). -/
theorem pendingCommits_terminates {s : State} {b : Beat} {todo : List Beat} (hroom : HasRoom s) (hd : s.dstate = .run)
    (ht : terminates (advanceCounts s) = true) : pendingCommits s (b :: todo) = [] := by
  simp only [pendingCommits, hd, polarities, List.map_cons, sourceDecodeFrom]
  rw [if_pos ((terminates_iff hroom).1 ht)]

/-- Source steps 4 to 6 on the machine's registers: the bit is committed at this sample, the rest stays pending (42 R159 to
R161). -/
theorem pendingCommits_commits {s : State} {b : Beat} {todo : List Beat} (hroom : HasRoom s) (hd : s.dstate = .run)
    (ht : terminates (advanceCounts s) = false) (hq : qualifies (beatPolarity s.params b) (advanceCounts s) = true) :
    pendingCommits s (b :: todo) = (bitOf (beatPolarity s.params b), s.sidx.toNat) ::
      pendingCommits { commit (beatPolarity s.params b) b (advanceCounts s) with
        lastpol := beatPolarity s.params b, sidx := s.sidx + 1 } todo := by
  have ht' := mt (terminates_iff hroom).2 (by simp [ht])
  have hq' := (qualifies_iff hroom _).1 hq
  simp only [pendingCommits, hd, polarities, List.map_cons, sourceDecodeFrom]
  rw [if_neg ht', if_pos hq', ← toNat_succ_of_lt hroom.sidx]
  simp [hd, satSucc32_toNat_of_lt hroom.bitcnt]

/-- Source step 6 alone on the machine's registers: the sample passes (42 R161). -/
theorem pendingCommits_passes {s : State} {b : Beat} {todo : List Beat} (hroom : HasRoom s) (hd : s.dstate = .run)
    (ht : terminates (advanceCounts s) = false) (hq : qualifies (beatPolarity s.params b) (advanceCounts s) = false) :
    pendingCommits s (b :: todo) =
      pendingCommits { advanceCounts s with lastpol := beatPolarity s.params b, sidx := s.sidx + 1 } todo := by
  have ht' := mt (terminates_iff hroom).2 (by simp [ht])
  have hq' := mt (qualifies_iff hroom (beatPolarity s.params b)).2 (by simp [hq])
  simp only [pendingCommits, hd, polarities, List.map_cons, sourceDecodeFrom]
  rw [if_neg ht', if_neg hq', ← toNat_succ_of_lt hroom.sidx]
  simp [hd, satSucc32_toNat_of_lt hroom.tcnt, satSucc32_toNat_of_lt hroom.gapcnt]

/-- The BitString is the first of these committed bits. -/
def StoresBits (cs : List (Bool × Nat)) (s : State) : Prop :=
  ∀ i, i < bitLen s → cs[i]?.map (fun c => c.1) = some (bitRead s i)

/-- The machine in mid-capture against the source's decode: `s0` the state DECODE left, `bs` the capture, `cs` the bits committed
so far, `todo` the beats still to come. -/
structure TracksDecode (s0 : State) (bs : List Beat) (cs : List (Bool × Nat)) (todo : List Beat) (s : State) : Prop where
  params : s.params = s0.params
  place : ∃ front, bs = front ++ todo ∧ s.sidx.toNat = front.length
  counts : s.tcnt.toNat ≤ s.sidx.toNat ∧ s.gapcnt.toNat ≤ s.sidx.toNat ∧ s.bitcnt.toNat ≤ s.sidx.toNat
  commits : sourceDecode s0.edgeThr.toNat s0.gapThr.toNat (polarities s0.params bs) = cs ++ pendingCommits s todo
  emitted : s.streamB = (expectedB s0.params bs cs).reverse ++ s0.streamB
  counted : s.bitcnt.toNat = cs.length
  stored : StoresBits cs s

/-- Before the first beat nothing is committed and everything is pending. -/
theorem FreshRun.tracksDecode {s : State} (h : FreshRun s) (bs : List Beat) : TracksDecode s bs [] bs s := by
  obtain ⟨hd, htcnt, hgap, hpol, hbit, hsidx, -⟩ := h
  refine ⟨rfl, ⟨[], rfl, by simp [hsidx]⟩, by simp [htcnt, hgap, hbit], ?_, by simp [expectedB], by simp [hbit], ?_⟩
  · simp [pendingCommits, hd, sourceDecode, htcnt, hgap, hpol, hbit, hsidx]
  · intro i hi
    simp [bitLen, hbit] at hi

/-- Before a beat of a capture of fewer than 2^32 samples no count is saturated (42 R151). -/
theorem TracksDecode.hasRoom {s0 s : State} {bs todo : List Beat} {cs : List (Bool × Nat)} {b : Beat}
    (h : TracksDecode s0 bs cs (b :: todo) s) (hlen : bs.length < 2 ^ 32) : HasRoom s := by
  obtain ⟨front, rfl, hsidx⟩ := h.place
  obtain ⟨htcnt, hgap, hbit⟩ := h.counts
  simp only [List.length_append, List.length_cons] at hlen
  constructor <;> omega

/-- One more committed bit is one more stream-B beat (42 R165). -/
theorem expectedB_concat (p : Params) (bs : List Beat) (cs : List (Bool × Nat)) (c : Bool × Nat) :
    expectedB p bs (cs ++ [c]) = expectedB p bs cs ++
      [{ value := c.1, index := BitVec.ofNat 32 cs.length, sidx := BitVec.ofNat 32 c.2,
         tag := ((bs[c.2]?).map (wiredTag p)).getD 0 }] := by
  simp [expectedB, List.zipIdx_append]

/-- A commit extends the BitString by its bit, or finds BITBUF full (42 R160, R164). -/
theorem StoresBits.commit {cs : List (Bool × Nat)} {s t : State} {v : Bool} {i : Nat} (h : StoresBits cs s)
    (hcount : s.bitcnt.toNat = cs.length) (hparams : t.params = s.params) (hbit : t.bitcnt.toNat = s.bitcnt.toNat + 1)
    (hbuf : t.bitbuf =
      if s.bitcnt.toNat < s.params.bitbufDepth then cellsSet s.bitcnt.toNat v s.bitbuf else s.bitbuf) :
    StoresBits (cs ++ [(v, i)]) t := by
  intro k hk
  simp only [bitLen, hparams, hbit] at hk
  by_cases hlast : k = cs.length
  · have hfull : s.bitcnt.toNat < s.params.bitbufDepth := by omega
    rw [bitRead, hbuf, if_pos hfull, hcount, hlast]
    simp
  · have hk' : k < bitLen s := by simp only [bitLen]; omega
    have hother : cellsGet k t.bitbuf = cellsGet k s.bitbuf := by
      rw [hbuf]
      split
      · exact cellsGet_set_other _ _ _ _ (by omega)
      · rfl
    rw [List.getElem?_append_left (by omega), h k hk', bitRead, bitRead, hother]

section Beat
variable {s0 s t : State} {bs todo : List Beat} {cs : List (Bool × Nat)} {b : Beat} {p : Polarity}

/-- The sample index moves on by one beat. -/
theorem place_succ (h : ∃ front, bs = front ++ b :: todo ∧ s.sidx.toNat = front.length) (hroom : HasRoom s)
    (hsidx : t.sidx = s.sidx + 1) :
    ∃ front, bs = front ++ todo ∧ t.sidx.toNat = front.length := by
  obtain ⟨front, rfl, hfront⟩ := h
  exact ⟨front ++ [b], by simp, by rw [hsidx, toNat_succ_of_lt hroom.sidx, hfront, List.length_append]; rfl⟩

/-- A beat that commits nothing keeps the relation if it leaves the same bits pending. -/
theorem TracksDecode.pass (h : TracksDecode s0 bs cs (b :: todo) s) (hroom : HasRoom s)
    (hpend : pendingCommits s (b :: todo) = pendingCommits t todo)
    (hparams : t.params = s.params := by simp) (hsidx : t.sidx = s.sidx + 1 := by simp)
    (htcnt : t.tcnt.toNat ≤ s.tcnt.toNat + 1 := by simp) (hgap : t.gapcnt.toNat ≤ s.gapcnt.toNat + 1 := by simp)
    (hbit : t.bitcnt = s.bitcnt := by simp) (hbuf : t.bitbuf = s.bitbuf := by simp)
    (hB : t.streamB = s.streamB := by simp) : TracksDecode s0 bs cs todo t where
  params := hparams.trans h.params
  place := place_succ h.place hroom hsidx
  counts := by
    have hcounts := h.counts
    rw [hsidx, toNat_succ_of_lt hroom.sidx, hbit]
    omega
  commits := hpend ▸ h.commits
  emitted := hB.trans h.emitted
  counted := hbit ▸ h.counted
  stored := by simpa only [StoresBits, bitLen, bitRead, hparams, hbit, hbuf] using h.stored

/-- A beat that commits the next pending bit keeps the relation, with that bit committed. -/
theorem TracksDecode.commit (h : TracksDecode s0 bs cs (b :: todo) s) (hroom : HasRoom s)
    (hpend : pendingCommits s (b :: todo) = (bitOf p, s.sidx.toNat) :: pendingCommits t todo)
    (hB : t.streamB = commitBeat p b s :: s.streamB)
    (hbuf : t.bitbuf =
      if s.bitcnt.toNat < s.params.bitbufDepth then cellsSet s.bitcnt.toNat (bitOf p) s.bitbuf else s.bitbuf)
    (hparams : t.params = s.params := by simp) (hsidx : t.sidx = s.sidx + 1 := by simp)
    (htcnt : t.tcnt = 0 := by simp) (hgap : t.gapcnt = 0 := by simp)
    (hbit : t.bitcnt = satSucc32 s.bitcnt := by simp) :
    TracksDecode s0 bs (cs ++ [(bitOf p, s.sidx.toNat)]) todo t := by
  have hbit' : t.bitcnt.toNat = s.bitcnt.toNat + 1 := by rw [hbit, satSucc32_toNat_of_lt hroom.bitcnt]
  have hbeat : bs[s.sidx.toNat]? = some b := by
    obtain ⟨front, rfl, hfront⟩ := h.place
    simp [hfront]
  exact {
    params := hparams.trans h.params
    place := place_succ h.place hroom hsidx
    counts := by
      have hcounts := h.counts
      rw [hsidx, toNat_succ_of_lt hroom.sidx, hbit', htcnt, hgap]
      exact ⟨Nat.zero_le _, Nat.zero_le _, by omega⟩
    commits := by rw [h.commits, hpend]; simp
    emitted := by
      rw [hB, h.emitted, expectedB_concat]
      simp [commitBeat, hbeat, h.params, ← h.counted]
    counted := by simp [hbit', h.counted]
    stored := h.stored.commit h.counted hparams hbit' hbuf }

/-- Every accepted beat of a capture does to the machine what the source's decode does with its sample. -/
theorem TracksDecode.acceptBeat (h : TracksDecode s0 bs cs (b :: todo) s) (hlen : bs.length < 2 ^ 32)
    (hd : s.dstate ≠ .idle) (hl : b.last = todo.isEmpty) : ∃ cs', TracksDecode s0 bs cs' todo (acceptBeat b s) := by
  have hroom := h.hasRoom hlen
  apply acceptBeat_keeps (fun t => ∃ cs', TracksDecode s0 bs cs' todo t)
  case hidle => exact fun hi => absurd hi hd
  case hterm =>
    intro hrun ht
    refine ⟨cs, h.pass hroom ?_⟩
    rw [pendingCommits_terminates hroom hrun ht, pendingCommits_finishBeat hl, pendingCommits_drain (by simp)]
  case hcommit =>
    intro hrun ht hq
    refine ⟨_, h.commit (p := beatPolarity s.params b) hroom ?_ (by simp [commitBeat]) ?_⟩
    · rw [pendingCommits_commits hroom hrun ht hq, pendingCommits_finishBeat hl]
      simp
    · rw [finishBeat_bitbuf]
      exact commit_bitbuf _ b (advanceCounts s)
  case hpass =>
    intro hrun ht hq
    refine ⟨cs, h.pass hroom ?_⟩
    rw [pendingCommits_passes hroom hrun ht hq, pendingCommits_finishBeat hl]
    simp
  case hdrain =>
    intro hdrain
    refine ⟨cs, h.pass hroom ?_⟩
    rw [pendingCommits_drain hdrain, pendingCommits_finishBeat hl]
    simp [pendingCommits, hdrain]

/-- The start of a cycle and the environment's queues are no part of the relation. -/
theorem TracksDecode.handOver (h : TracksDecode s0 bs cs todo s) (rest : List Beat) :
    TracksDecode s0 bs cs todo (handOver rest s) :=
  ⟨h.params, h.place, h.counts, h.commits, h.emitted, h.counted, h.stored⟩

/-- At the end of the capture the committed bits are all of the source's decode. -/
theorem TracksDecode.commits_eq (h : TracksDecode s0 bs cs [] s) :
    sourceDecode s0.edgeThr.toNat s0.gapThr.toNat (polarities s0.params bs) = cs := by
  simpa using h.commits

end Beat

/-- Settles O55: every beat of the capture keeps `TracksDecode`, and at its end nothing is pending. -/
theorem captureIsTheSourcesDecode : Obligations.CaptureIsTheSourcesDecode := by
  intro s bs hfresh hcap hlen hdel
  have hd : s.dstate ≠ .idle := by simp [hfresh.1]
  obtain ⟨t, hrun, ⟨cs, ht⟩, hidle, hdone, hsrc⟩ :=
    run_capture_keeps (fun todo u => ∃ cs, TracksDecode s bs cs todo u)
      (fun _ rest _ ⟨cs, h⟩ => ⟨cs, h.handOver rest⟩)
      (fun _ _ _ hd hl ⟨_, h⟩ => h.acceptBeat hlen hd hl) hcap hdel hd ⟨[], hfresh.tracksDecode bs⟩
  obtain ⟨front, hfront, hsidx⟩ := ht.place
  rw [ht.commits_eq]
  exact ⟨t, hrun, ht.emitted, ht.counted, ht.stored, hidle, hdone, by simp [hsidx, hfront], hsrc⟩

end Sys2Proof.Machine
end

section
/-! PROOFS. The invariants of a capture (10_state R49 to R52, 42 R158, R163, 43 R181, R183). Between beats only DECODE, CLEAR
and reset touch the registers of a capture, so a property of these alone is kept by every step if a restart and an accepted beat
keep it (`CaptureProperty.step`). -/

namespace Sys2Proof.Machine

/-- The part of a state that belongs to the capture: the decoder, the alignment unit, BITBUF and the emitted beats. Everything
else is as at reset. -/
def captureOf (s : State) : State :=
  { State.reset with
    dstate := s.dstate, done := s.done, term := s.term, ovf := s.ovf, tcnt := s.tcnt, gapcnt := s.gapcnt
    lastpol := s.lastpol, bitcnt := s.bitcnt, sidx := s.sidx, ahave := s.ahave, aval := s.aval, asince := s.asince
    aidx := s.aidx, bitbuf := s.bitbuf, params := s.params, streamB := s.streamB, streamA := s.streamA }

/-- The capture given up (DECODE, CLEAR, reset): the decoder in the state `d`, which is IDLE or RUN; reset empties BITBUF too. -/
def restart (d : DState) (cells : List (Nat × Bool)) (s : State) : State :=
  { clearCapture s with dstate := d, bitbuf := cells }

/-- A property of the capture alone that giving the capture up keeps. -/
structure CaptureProperty (P : State → Prop) : Prop where
  view : ∀ s, P (captureOf s) ↔ P s
  restarted : ∀ s d cells, d ≠ .drain → P s → P (restart d cells s)

section Capture
variable {P : State → Prop} {s t u : State}

/-- Two states with the same capture have the same such properties. -/
theorem CaptureProperty.congr (hP : CaptureProperty P) (hs : P s) (h : captureOf t = captureOf s) : P t :=
  (hP.view t).1 (h ▸ (hP.view s).2 hs)

/-- A state whose capture is a given-up one has the property still. -/
theorem CaptureProperty.congr_restart (hP : CaptureProperty P) (hs : P s) {d : DState} {cells : List (Nat × Bool)}
    (hd : d ≠ .drain) (h : captureOf t = captureOf (restart d cells s)) : P t :=
  hP.congr (hP.restarted s d cells hd hs) h

/-- A command keeps the capture, or gives it up. -/
theorem CaptureProperty.exec (hP : CaptureProperty P) {i : Instr} (h : exec i s = .next t) (hs : P s) : P t := by
  cases exec_cases h with
  | reported c => exact hP.congr hs rfl
  | cleared => exact hP.congr_restart hs (d := .idle) (cells := s.bitbuf) (by decide) rfl
  | started => exact hP.congr_restart hs (d := .run) (cells := s.bitbuf) (by decide) rfl
  | computed v => exact hP.congr hs rfl
  | located k => exact hP.congr hs rfl
  | notLocated => exact hP.congr hs rfl
  | stored bytes => exact hP.congr hs (by rw [outWriteAll_eq]; rfl)

theorem CaptureProperty.completion (hP : CaptureProperty P) (h : completionEvent s = .next t) (hs : P s) : P t := by
  obtain ⟨-, rfl⟩ | ⟨-, i, u, -, hexec, rfl⟩ := completionEvent_cases h
  · exact hs
  · exact hP.congr (hP.exec hexec hs) rfl

theorem CaptureProperty.issue (hP : CaptureProperty P) {w : Word} (h : issue w s = .next t) (hs : P s) : P t := by
  obtain ⟨-, rfl⟩ | ⟨-, -, rfl⟩ | ⟨-, i, -, -, rfl⟩ | ⟨-, i, -, -, hexec⟩ := issue_cases h
  · exact hP.congr hs rfl
  · exact hP.congr hs rfl
  · exact hP.congr hs rfl
  · exact hP.exec hexec (hP.congr hs rfl)

theorem CaptureProperty.host (hP : CaptureProperty P) {op : Option HostOp} (h : hostAccess op s = .next t) (hs : P s) :
    P t := by
  obtain rfl | ⟨offset, rfl⟩ | ⟨offset, data, hw⟩ := hostAccess_cases h
  · exact hs
  · exact hP.congr hs rfl
  · cases writeWord_cases hw with
    | issued _ hissue => exact hP.issue hissue hs
    | _ => exact hP.congr hs rfl

/-- A reset cycle gives the capture up; the emitted beats stay (70 R260). -/
theorem CaptureProperty.reset (hP : CaptureProperty P) (op : Option HostOp) (hs : P s) : P (resetCycle op s) := by
  refine hP.congr_restart hs (d := .idle) (cells := []) (by decide) ?_
  unfold resetCycle
  split <;> rfl

/-- A beat that is offered is accepted, or left at the source. -/
theorem takeBeat_eq (s : State) : takeBeat s = s ∨ ∃ b rest, takeBeat s = acceptBeat b { s with source := rest } := by
  obtain h | ⟨b, rest, -, ⟨hd, h⟩ | ⟨hd, h⟩⟩ := takeBeat_cases s
  · exact .inl h
  · exact .inr ⟨b, rest, by simp [h, acceptBeat, hd]⟩
  · exact .inr ⟨b, rest, by simp [h, acceptBeat, hd]⟩

/-- A property of the capture alone is kept by a step if it holds after the beat the step may accept. -/
theorem CaptureProperty.step (hP : CaptureProperty P) (h : step s = .next t) (hs : P s)
    (hbeat : ∀ b u, captureOf u = captureOf s → P (acceptBeat b u)) : P t := by
  obtain ⟨-, rfl⟩ | ⟨-, u, v, hu, hv, ht⟩ := step_cases h
  · exact hP.reset _ (hP.congr hs rfl)
  · have hPu : P u := by
      obtain rfl | rfl := hu
      · exact hP.congr hs rfl
      · obtain heq | ⟨b, rest, heq⟩ := takeBeat_eq (beginCycle s) <;> rw [heq]
        · exact hP.congr hs rfl
        · exact hbeat b _ rfl
    have hPv : P v := by
      obtain rfl | hv := hv
      · exact hPu
      · exact hP.completion hv hPu
    exact hP.host ht hPv

/-- A property of the capture alone that an accepted beat keeps is kept by every step. -/
theorem CaptureProperty.step_of_beat (hP : CaptureProperty P) (hbeat : ∀ b s, P s → P (acceptBeat b s))
    (h : Machine.step s = .next t) (hs : P s) : P t :=
  hP.step h hs fun b _ hu => hbeat b _ (hP.congr hs hu)

end Capture

theorem countersAgree_capture : CaptureProperty CountersAgree where
  view _ := .rfl
  restarted _ _ _ _ _ := rfl

/-- A beat advances both counts, or clears both (42 R156, R160). -/
theorem CountersAgree.acceptBeat {b : Beat} {s : State} (h : CountersAgree s) : CountersAgree (acceptBeat b s) := by
  unfold CountersAgree at h
  apply acceptBeat_keeps <;> intros <;> simp [CountersAgree, h]

/-- Settles O48: every event advances both counts, clears both, or leaves both. -/
theorem stepKeepsCountersEqual : Obligations.StepKeepsCountersEqual :=
  ⟨rfl, fun _ _ hs h => countersAgree_capture.step_of_beat (fun _ _ hs => hs.acceptBeat) h hs⟩

theorem captureFlags_capture : CaptureProperty CaptureFlags where
  view _ := .rfl
  restarted _ _ _ hd _ := by simp [CaptureFlags, restart, hd]

/-- The end of a beat moves `DONE` and `DSTATE` together (42 R163). -/
theorem CaptureFlags.finishBeat {c : Option (Bool × Word)} {b : Beat} {s : State} (h : CaptureFlags s)
    (hd : s.dstate ≠ .idle) : CaptureFlags (finishBeat c b s) := by
  obtain ⟨hdone, hdrain, hrun, hterm⟩ := h
  have hopen : s.done = false := by simpa [hd] using hdone
  cases hl : b.last <;> simp_all [CaptureFlags]

/-- A beat that terminates sets `TERM` with DRAIN and finds its 6 bits (42 R158); every other beat leaves the flags to its
end, and one that commits does so with `TERM` = 0. -/
theorem CaptureFlags.acceptBeat {b : Beat} {s : State} (h : CaptureFlags s) : CaptureFlags (acceptBeat b s) := by
  obtain ⟨hdone, hdrain, hrun, hterm⟩ := h
  apply acceptBeat_keeps
  case hidle => exact fun _ => ⟨hdone, hdrain, hrun, hterm⟩
  case hterm =>
    intro hd ht
    have hbits := ((terminates_advance s).1 ht).2
    exact finishBeat (by simp_all [CaptureFlags, Config.minBits]) (by simp)
  case hcommit =>
    intro hd _ _
    exact finishBeat (by simp_all [CaptureFlags]) (by simp [hd])
  case hpass =>
    intro hd _ _
    exact finishBeat (by simp_all [CaptureFlags]) (by simp [hd])
  case hdrain => exact fun hd => finishBeat ⟨hdone, hdrain, hrun, hterm⟩ (by simp [hd])

/-- Settles O51: a restart clears the flags, and a beat moves `DSTATE` with them. -/
theorem stepKeepsCaptureFlags : Obligations.StepKeepsCaptureFlags :=
  fun _ _ _ hs h => captureFlags_capture.step_of_beat (fun _ _ hs => hs.acceptBeat) h hs

theorem alignAgrees_capture : CaptureProperty AlignAgrees where
  view _ := .rfl
  restarted _ _ _ _ _ := by simp [AlignAgrees, restart]

/-- What `AlignAgrees` says of the last committed bit: all but `ASINCE` (10_state R49, R50). -/
structure LastBitAgrees (s : State) : Prop where
  ahave : s.ahave = decide (0 < s.bitcnt.toNat)
  absent : s.ahave = false → s.aidx = Config.noIndex ∧ s.aval = false
  count : s.ahave = true → s.bitcnt.toNat = min (s.aidx.toNat + 1) 0xFFFFFFFF
  value : s.ahave = true → s.aidx.toNat < s.params.bitbufDepth → cellsGet s.aidx.toNat s.bitbuf = some s.aval

/-- A count that has advanced is not 0. -/
theorem satSucc32_toNat_pos (v : Word) : 0 < (satSucc32 v).toNat := by
  rw [satSucc32_toNat]
  omega

/-- `ASINCE` and `TCNT` count one more sample alike (42 R156, 43 R181). -/
theorem satSucc8_eq_min_satSucc32 {since : BitVec 8} {tcnt : Word} (h : since.toNat = min 255 tcnt.toNat) :
    (satSucc8 since).toNat = min 255 (satSucc32 tcnt).toNat := by
  rw [satSucc8_toNat, satSucc32_toNat, h]
  omega

/-- The end of a beat that commits nothing leaves the last bit alone and counts one sample in `ASINCE` (43 R181). -/
theorem LastBitAgrees.finishBeat_none {b : Beat} {s : State} (h : LastBitAgrees s)
    (hsince : s.dstate = .run → (satSucc8 s.asince).toNat = min 255 s.tcnt.toNat) : AlignAgrees (finishBeat none b s) := by
  refine ⟨by simpa using h.ahave, by simpa using h.absent, by simpa using h.count, by simpa using h.value, ?_⟩
  intro hrun
  cases hl : b.last <;> simp [hl] at hrun
  simpa using hsince hrun

/-- A beat that commits makes its bit the last one and starts both counts anew; any other leaves the bit alone and, in RUN,
advances both (43 R181). -/
theorem AlignAgrees.acceptBeat {b : Beat} {s : State} (h : AlignAgrees s) : AlignAgrees (acceptBeat b s) := by
  obtain ⟨hhave, habsent, hcount, hvalue, hsince⟩ := h
  have hlast : LastBitAgrees s := ⟨hhave, habsent, hcount, hvalue⟩
  apply acceptBeat_keeps
  case hidle => exact fun _ => ⟨hhave, habsent, hcount, hvalue, hsince⟩
  case hterm =>
    exact fun _ _ => (show LastBitAgrees (terminate (advanceCounts s)) from { hlast with }).finishBeat_none (by simp)
  case hcommit =>
    intro _ _ _
    refine ⟨by simp [satSucc32_toNat_pos], by simp, by simp [satSucc32_toNat], fun _ hlt => ?_, by simp⟩
    have hfits : s.bitcnt.toNat < s.params.bitbufDepth := by simpa using hlt
    simp [hfits]
  case hpass =>
    exact fun hd _ _ => (show LastBitAgrees { advanceCounts s with lastpol := beatPolarity s.params b } from
      { hlast with }).finishBeat_none fun _ => satSucc8_eq_min_satSucc32 (hsince hd)
  case hdrain => exact fun hd => hlast.finishBeat_none (by simp [hd])

theorem absentIsMarked_capture : CaptureProperty AbsentIsMarked where
  view _ := .rfl
  restarted _ _ _ _ h := h

/-- The annotation of a sample without a bit is marked (43 R183). -/
theorem annotation_absent {b : Beat} {s : State} (h : (annotation b s).present = false) :
    (annotation b s).bitIndex = Config.noIndex ∧ (annotation b s).bitValue = false := by
  have habs : alignPresent s = false := h
  simp [annotation, habs]

/-- The annotation of a sample with a bit names the last committed one (43 R181). -/
theorem annotation_present {b : Beat} {s : State} (h : (annotation b s).present = true) :
    s.ahave = true ∧ (annotation b s).bitIndex = s.aidx := by
  have hpres : alignPresent s = true := h
  refine ⟨?_, by simp [annotation, hpres]⟩
  rw [alignPresent, Bool.and_eq_true] at hpres
  exact hpres.1

theorem AbsentIsMarked.finishBeat {c : Option (Bool × Word)} {b : Beat} {s : State} (h : AbsentIsMarked s) :
    AbsentIsMarked (finishBeat c b s) := by
  unfold AbsentIsMarked
  rw [finishBeat_streamA]
  split
  · exact List.forall_mem_cons.2 ⟨annotation_absent, h⟩
  · exact h

theorem AbsentIsMarked.acceptBeat {b : Beat} {s : State} (h : AbsentIsMarked s) : AbsentIsMarked (acceptBeat b s) :=
  acceptBeat_keeps _ b s (fun _ => h) (fun _ _ => finishBeat h) (fun _ _ _ => finishBeat (by simpa [AbsentIsMarked] using h))
    (fun _ _ _ => finishBeat h) (fun _ => finishBeat h)

theorem indicesAreReal_capture : CaptureProperty IndicesAreReal where
  view _ := .rfl
  restarted _ _ _ _ h := h

/-- The end of a beat annotates its sample with a real index, if the last committed bit has one. -/
theorem IndicesAreReal.finishBeat {c : Option (Bool × Word)} {b : Beat} {s : State} (h : IndicesAreReal s)
    (hidx : (alignUpdate c s).ahave = true → (alignUpdate c s).aidx ≠ Config.noIndex) :
    IndicesAreReal (finishBeat c b s) := by
  obtain ⟨hB, hA⟩ := h
  refine ⟨by simpa using hB, ?_⟩
  rw [finishBeat_streamA]
  split
  · refine List.forall_mem_cons.2 ⟨fun hpres => ?_, hA⟩
    obtain ⟨hhave, heq⟩ := annotation_present hpres
    exact heq ▸ hidx hhave
  · exact hA

/-- Below saturation the last committed bit has a real index: `BITCNT` is one more (log entry 10). -/
theorem AlignAgrees.aidx_ne_noIndex {s : State} (h : AlignAgrees s) (hsat : s.bitcnt ≠ 0xFFFFFFFF) (hhave : s.ahave = true) :
    s.aidx ≠ Config.noIndex := by
  obtain ⟨-, -, hcount, -⟩ := h
  intro hidx
  have h := hcount hhave
  rw [hidx] at h
  exact hsat (BitVec.eq_of_toNat_eq h)

/-- Below saturation a beat emits real indices: that of the bit it commits is `BITCNT`, any other is the last bit's. -/
theorem IndicesAreReal.acceptBeat {b : Beat} {s : State} (h : IndicesAreReal s) (hs : AlignAgrees s)
    (hsat : s.bitcnt ≠ 0xFFFFFFFF) : IndicesAreReal (acceptBeat b s) := by
  have hidx := hs.aidx_ne_noIndex hsat
  apply acceptBeat_keeps
  case hidle => exact fun _ => h
  case hterm => exact fun _ _ => finishBeat h hidx
  case hcommit =>
    obtain ⟨hB, hA⟩ := h
    intro _ _ _
    refine finishBeat ⟨?_, by simpa using hA⟩ fun _ => hsat
    simp only [commit_streamB]
    exact List.forall_mem_cons.2 ⟨hsat, hB⟩
  case hpass => exact fun _ _ _ => finishBeat h hidx
  case hdrain => exact fun _ => finishBeat h hidx

/-- Settles O54: a restart forgets the last bit, and an accepted beat keeps each of the three properties, `IndicesAreReal` by what
`AlignAgrees` says of the last bit. -/
theorem stepKeepsAlignment : Obligations.StepKeepsAlignment := by
  intro s t _ hs h
  refine ⟨alignAgrees_capture.step_of_beat (fun _ _ hs => hs.acceptBeat) h hs,
    absentIsMarked_capture.step_of_beat (fun _ _ hs => hs.acceptBeat) h, fun hsat hreal => ?_⟩
  refine indicesAreReal_capture.step h hreal fun b u hu => ?_
  have hbit : u.bitcnt = s.bitcnt := show (captureOf u).bitcnt = (captureOf s).bitcnt by rw [hu]
  exact (indicesAreReal_capture.congr hreal hu).acceptBeat (alignAgrees_capture.congr hs hu) (hbit ▸ hsat)

end Sys2Proof.Machine
end

section
/-! PROOFS. The registers as the host reads and writes them (10_state R22 to R50): the register map once, then each register by
its own word. -/

namespace Sys2Proof.Machine

/-- The map of 10_state R22: a register stands at its offset. -/
@[simp] theorem placeOf_regOffset (r : Reg) : placeOf (regOffset r) = .register r := by
  cases r <;> rfl

theorem readWord_regOffset (r : Reg) (s : State) : readWord (regOffset r) s = readReg r s := by
  simp [readWord]

theorem writeWord_regOffset (r : Reg) (data : Word) (s : State) : writeWord (regOffset r) data s = writeReg r data s := by
  simp [writeWord]

/-- Fields side by side, as a number: the upper field stands above the lower one's width. -/
theorem toNat_append_eq_add {m n : Nat} (x : BitVec m) (y : BitVec n) : (x ++ y).toNat = 2 ^ n * x.toNat + y.toNat := by
  rw [BitVec.toNat_append, Nat.shiftLeft_eq, Nat.mul_comm, Nat.two_pow_add_eq_or_of_lt y.isLt]

/-- `STATUS` field by field (10_state R27). -/
theorem statusWord_toNat (s : State) :
    (statusWord s).toNat = (dstateCode s.dstate).toNat + 4 * s.busy.toNat + 8 * s.done.toNat + 16 * s.term.toNat
      + 32 * s.ovf.toNat + 64 * s.found.toNat := by
  simp only [statusWord, toNat_append_eq_add, BitVec.toNat_ofBool, BitVec.ofNat_eq_ofNat, BitVec.toNat_ofNat]
  omega

/-- `ALIGN_STATE` field by field (10_state R49). -/
theorem alignStateWord_toNat (s : State) :
    (alignStateWord s).toNat = s.ahave.toNat + 2 * s.aval.toNat + 256 * s.asince.toNat := by
  simp only [alignStateWord, toNat_append_eq_add, BitVec.toNat_ofBool, BitVec.ofNat_eq_ofNat, BitVec.toNat_ofNat]
  omega

/-- The parameters of a legal build fit their fields of `PARAMS` (10_state R25, 00_scope R8). -/
theorem paramsWord_toNat {p : Params} (h : p.Legal) :
    (paramsWord p).toNat = p.bbLog2 + 2 ^ 8 * p.obLog2 + 2 ^ 16 * p.vw + 2 ^ 24 * p.tagw := by
  obtain ⟨⟨-, hvw⟩, htagw, ⟨-, hbb⟩, -, hob⟩ := h
  simp only [paramsWord, toNat_append_eq_add, BitVec.ofNat_eq_ofNat, BitVec.toNat_ofNat]
  omega

/-- BITBUF's depth in a legal build (00_scope R8). -/
theorem bitbufDepth_range {p : Params} (h : p.Legal) : 64 ≤ p.bitbufDepth ∧ p.bitbufDepth ≤ 131072 := by
  obtain ⟨-, -, ⟨hlo, hhi⟩, -⟩ := h
  exact ⟨Nat.pow_le_pow_right (n := 2) (by decide) hlo, Nat.pow_le_pow_right (n := 2) (by decide) hhi⟩

/-- OUTBUF's depth in a legal build (00_scope R8). -/
theorem outbufDepth_range {p : Params} (h : p.Legal) : 64 ≤ p.outbufDepth ∧ p.outbufDepth ≤ 32768 := by
  obtain ⟨-, -, -, hlo, hhi⟩ := h
  exact ⟨Nat.pow_le_pow_right (n := 2) (by decide) hlo, Nat.pow_le_pow_right (n := 2) (by decide) hhi⟩

/-- `BITLEN` is at most a count of 32 bits, in every build (10_state R38). -/
theorem bitLen_lt (s : State) : bitLen s < 2 ^ 32 :=
  Nat.lt_of_le_of_lt (Nat.min_le_left _ _) s.bitcnt.isLt

/-- Settles O60: the offset names the register, and its word is its element. -/
theorem registersReadTheState : Obligations.RegistersReadTheState := by
  intro s
  have hread := fun r => readWord_regOffset r s
  have hnat := fun r => congrArg BitVec.toNat (hread r)
  refine ⟨hread .id, hread .version, (hnat .ctrl).trans ?_, hread .cmd, (hnat .err).trans ?_, (hnat .irqStatus).trans ?_,
    (hnat .irqEnable).trans ?_, hread .edgeThr, hread .gapThr, hread .tcnt, hread .gapcnt, hread .bitcnt,
    (hnat .bitlen).trans ?_, hread .sidx, hread .frameOffset, hread .src, hread .len, hread .dst, hread .outlen, hread .opa,
    hread .opb, hread .opc, hread .result, hread .aidx⟩ <;> simp only [readReg]
  · exact (BitVec.toNat_setWidth_of_le (by decide)).trans (BitVec.toNat_ofBool _)
  · cases s.err <;> rfl
  · exact BitVec.toNat_setWidth_of_le (by decide)
  · exact BitVec.toNat_setWidth_of_le (by decide)
  · exact (BitVec.toNat_ofNat _ _).trans (Nat.mod_eq_of_lt (bitLen_lt s))

/-- Settles O44: the words of the three registers, field by field. -/
theorem statusAndAlignFields : Obligations.StatusAndAlignFields := by
  intro s
  have hnat := fun r => congrArg BitVec.toNat (readWord_regOffset r s)
  refine ⟨(hnat .status).trans ?_, (hnat .lastpol).trans ?_, (hnat .alignState).trans (alignStateWord_toNat s)⟩
  · refine (statusWord_toNat s).trans ?_
    cases s.dstate <;> rfl
  · simp only [readReg]
    cases s.lastpol <;> rfl

/-- Settles O45: within the legal ranges every parameter fits its field, and the depths are the powers of two the fields name. -/
theorem paramsReportsTheBuild : Obligations.ParamsReportsTheBuild := by
  refine ⟨fun s hs => ⟨?_, bitbufDepth_range hs, outbufDepth_range hs⟩, fun s w => writeWord_regOffset .params w s,
    fun s hs => ?_⟩
  · exact (congrArg BitVec.toNat (readWord_regOffset .params s)).trans (paramsWord_toNat hs)
  · rw [hs]
    refine ⟨(readWord_regOffset .params s).trans ?_, rfl, rfl⟩
    rw [readReg, hs]
    rfl

/-- A register of five bits reads back the low five bits written (10_state R31). -/
theorem setWidth_setWidth_eq_and_mask (w : Word) : (w.setWidth 5).setWidth 32 = w &&& 0x0000001F := by
  refine BitVec.eq_of_toNat_eq ?_
  rw [BitVec.toNat_setWidth_of_le (by decide), BitVec.toNat_setWidth, BitVec.toNat_and]
  exact (Nat.and_two_pow_sub_one_eq_mod _ 5).symm

/-- Settles O40: a write to a register's offset is the write of that register, and a read there gives its word. -/
theorem writableRegistersReadBack : Obligations.WritableRegistersReadBack := by
  intro s w
  have hwrite := fun r => writeWord_regOffset r w s
  have hread := readWord_regOffset
  refine ⟨⟨hwrite .ctrl, (hread .ctrl _).trans ?_⟩, ⟨hwrite .irqEnable, (hread .irqEnable _).trans ?_⟩,
    ⟨hwrite .src, hread .src _⟩, ⟨hwrite .len, hread .len _⟩, ⟨hwrite .dst, hread .dst _⟩,
    ⟨hwrite .opa, hread .opa _⟩, ⟨hwrite .opb, hread .opb _⟩, ⟨hwrite .opc, hread .opc _⟩⟩
  · exact BitVec.and_one_eq_setWidth_ofBool_getLsbD.symm
  · exact setWidth_setWidth_eq_and_mask w

end Sys2Proof.Machine
end

section
/-! PROOFS. The thresholds: locked outside IDLE for the host's writes, and touched by nothing else (10_state R32, R33, 42 R153). -/

namespace Sys2Proof.Machine

/-- The two thresholds (10_state R32, R33). -/
def thresholds (s : State) : Word × Word := (s.edgeThr, s.gapThr)

/-- A command leaves the thresholds alone. -/
theorem exec_thresholds {i : Instr} {s t : State} (h : exec i s = .next t) : thresholds t = thresholds s := by
  cases exec_cases h <;> simp [thresholds]

theorem completionEvent_thresholds {s t : State} (h : completionEvent s = .next t) :
    thresholds t = thresholds s := by
  obtain ⟨-, rfl⟩ | ⟨-, i, u, -, hexec, rfl⟩ := completionEvent_cases h
  · rfl
  · exact (exec_thresholds hexec :)

theorem issue_thresholds {w : Word} {s t : State} (h : issue w s = .next t) : thresholds t = thresholds s := by
  obtain ⟨-, rfl⟩ | ⟨-, -, rfl⟩ | ⟨-, i, -, -, rfl⟩ | ⟨-, i, -, -, hexec⟩ := issue_cases h
  · rfl
  · rfl
  · rfl
  · exact (exec_thresholds hexec :)

/-- A beat leaves the thresholds alone. -/
theorem takeBeat_thresholds (s : State) : thresholds (takeBeat s) = thresholds s := by
  obtain h | ⟨b, rest, h⟩ := takeBeat_eq s
  · rw [h]
  · rw [h]
    apply acceptBeat_keeps (fun t => thresholds t = thresholds s) <;> intros <;> simp [thresholds]

/-- A host access that changes a threshold found the decoder in IDLE and leaves it there (10_state R32, R33). -/
theorem hostAccess_thresholds {op : Option HostOp} {s t : State} (h : hostAccess op s = .next t) (hd : t.dstate ≠ .idle) :
    thresholds t = thresholds s := by
  obtain rfl | ⟨offset, rfl⟩ | ⟨offset, data, hw⟩ := hostAccess_cases h
  · rfl
  · rfl
  · cases writeWord_cases hw with
    | edgeThr hidle => exact absurd hidle hd
    | gapThr hidle => exact absurd hidle hd
    | issued _ hissue => exact issue_thresholds hissue
    | _ => rfl

/-- Within a step only the host's access changes a threshold, and a reset ends in IDLE. -/
theorem step_thresholds {s t : State} (h : step s = .next t) (hd : t.dstate ≠ .idle) :
    thresholds t = thresholds s := by
  obtain ⟨-, rfl⟩ | ⟨-, u, v, hu, hv, ht⟩ := step_cases h
  · refine absurd ?_ hd
    unfold resetCycle
    split <;> rfl
  · have hus : thresholds u = thresholds s := by
      obtain rfl | rfl := hu
      · rfl
      · exact takeBeat_thresholds (beginCycle s)
    have hvu : thresholds v = thresholds u := by
      obtain rfl | hv := hv
      · rfl
      · exact completionEvent_thresholds hv
    exact (hostAccess_thresholds ht hd).trans (hvu.trans hus)

theorem thresholdWrite_idle {s t : State} (h : s.dstate = .idle) : thresholdWrite t s = t := by
  simp [thresholdWrite, h]

theorem thresholdWrite_locked {s t : State} (h : s.dstate ≠ .idle) : thresholdWrite t s = raiseIrq irqDrop s := by
  cases hd : s.dstate <;> simp_all [thresholdWrite]

/-- Settles O41: `thresholdWrite` takes effect in IDLE alone, and no other event of a step touches a threshold. -/
theorem thresholdsAreWrittenOnlyInIdle : Obligations.ThresholdsAreWrittenOnlyInIdle := by
  have hwrite := writeWord_regOffset
  refine ⟨fun s w hd => ?_, fun s w hd => ?_, fun s t h hd => Prod.mk.inj (step_thresholds h hd)⟩
  · exact ⟨(hwrite .edgeThr w s).trans (congrArg _ (thresholdWrite_idle hd)), readWord_regOffset .edgeThr _,
      (hwrite .gapThr w s).trans (congrArg _ (thresholdWrite_idle hd)), readWord_regOffset .gapThr _⟩
  · exact ⟨(hwrite .edgeThr w s).trans (congrArg _ (thresholdWrite_locked hd)),
      (hwrite .gapThr w s).trans (congrArg _ (thresholdWrite_locked hd))⟩

end Sys2Proof.Machine
end

section
/-! PROOFS. The buffers and the command engine (20_memory R76, R79, R84, 44 R190, 60 R236). Beats, completions, issues and reset
alone touch them, so a property of these alone is kept by every step if the four keep it (`step_keeps_storage`). -/

namespace Sys2Proof.Machine

/-- The part of a state that the buffers and the command engine make up: BITBUF with `BITCNT`, OUTBUF, `BUSY` and the latch.
Everything else is as at reset. -/
def storageOf (s : State) : State :=
  { State.reset with
    bitbuf := s.bitbuf, bitcnt := s.bitcnt, outbuf := s.outbuf, busy := s.busy, latch := s.latch, params := s.params }

/-- A host access is no access to the buffers or the engine, unless it issues a command word. -/
theorem hostAccess_storage {op : Option HostOp} {s t : State} (h : hostAccess op s = .next t) :
    storageOf t = storageOf s ∨ ∃ w, issue w s = .next t := by
  obtain rfl | ⟨offset, rfl⟩ | ⟨offset, data, hw⟩ := hostAccess_cases h
  · exact .inl rfl
  · exact .inl rfl
  · cases writeWord_cases hw with
    | issued _ hissue => exact .inr ⟨data, hissue⟩
    | _ => exact .inl rfl

/-- A reset cycle resets the buffers and the engine, whatever the host does in it (70 R260). -/
theorem resetCycle_storage (op : Option HostOp) (s : State) : storageOf (resetCycle op s) = storageOf (resetRegisters s) := by
  unfold resetCycle
  split <;> rfl

/-- A property of the buffers and the engine is kept by every step if an accepted beat, a completion, an issue and a reset keep
it. -/
theorem step_keeps_storage {P : State → Prop} (hview : ∀ s, P (storageOf s) ↔ P s)
    (hbeat : ∀ b s, P s → P (acceptBeat b s)) (hcomplete : ∀ {s t}, completionEvent s = .next t → P s → P t)
    (hissue : ∀ {w s t}, issue w s = .next t → P s → P t) (hreset : ∀ s, P s → P (resetRegisters s))
    {s t : State} (h : step s = .next t) (hs : P s) : P t := by
  have hcongr {s t : State} (h : storageOf t = storageOf s) (hs : P s) : P t := (hview t).1 (h ▸ (hview s).2 hs)
  refine step_keeps P (fun s => hcongr rfl) ?beat (fun _ _ hs h => hcomplete h hs) ?host ?reset hs h
  case beat =>
    intro s hs
    obtain heq | ⟨b, rest, heq⟩ := takeBeat_eq s <;> rw [heq]
    · exact hs
    · exact hbeat b _ (hcongr (s := s) rfl hs)
  case host =>
    intro op s t hs h
    obtain heq | ⟨w, hw⟩ := hostAccess_storage h
    · exact hcongr heq hs
    · exact hissue hw hs
  case reset => exact fun op s hs => hcongr (resetCycle_storage op s) (hreset s hs)

/-- A command stores within OUTBUF or leaves the buffers alone. -/
theorem BuffersCanonical.exec {i : Instr} {s t : State} (h : exec i s = .next t) (hs : BuffersCanonical s) :
    BuffersCanonical t := by
  cases exec_cases h with
  | stored bytes _ hfit =>
    obtain ⟨hbits, hdepth, hwf, hbound⟩ := hs
    refine ⟨by simpa using hbits, by simpa using hdepth, outWriteAll_wf _ bytes s hwf, ?_⟩
    simpa using outWriteAll_bounded _ _ bytes s hfit hbound
  | _ => exact hs

theorem BuffersCanonical.completion {s t : State} (h : completionEvent s = .next t) (hs : BuffersCanonical s) :
    BuffersCanonical t := by
  obtain ⟨-, rfl⟩ | ⟨-, i, u, -, hexec, rfl⟩ := completionEvent_cases h
  · exact hs
  · exact (exec hexec hs :)

theorem BuffersCanonical.issue {w : Word} {s t : State} (h : issue w s = .next t) (hs : BuffersCanonical s) :
    BuffersCanonical t := by
  obtain ⟨-, rfl⟩ | ⟨-, -, rfl⟩ | ⟨-, i, -, -, rfl⟩ | ⟨-, i, -, -, hexec⟩ := issue_cases h
  · exact hs
  · exact hs
  · exact hs
  · exact exec hexec hs

/-- A beat that commits writes the bit at `BITCNT` where BITBUF has room for it (42 R160, R164); any other beat leaves the
buffers alone. -/
theorem BuffersCanonical.acceptBeat {b : Beat} {s : State} (hs : BuffersCanonical s) : BuffersCanonical (acceptBeat b s) := by
  obtain ⟨hbits, hdepth, hwf, hbound⟩ := hs
  apply acceptBeat_keeps
  case hcommit =>
    intro _ _ _
    refine ⟨?_, ?_, by simpa using hwf, by simpa using hbound⟩ <;>
      simp only [finishBeat_bitbuf, finishBeat_params, commit_bitbuf, commit_params] <;> split
    · exact cellsSet_rising 0 _ _ _ (Nat.zero_le _) hbits
    · exact hbits
    · rename_i hroom
      exact cellsSet_bounded _ _ _ _ hroom hdepth
    · exact hdepth
  all_goals
    intros
    simp only [BuffersCanonical, finishBeat_bitbuf, finishBeat_outbuf, finishBeat_params]
    exact ⟨hbits, hdepth, hwf, hbound⟩

/-- Settles O49: the two writers, a committing beat and a storing command, insert in order and below the depth. -/
theorem stepKeepsBuffersCanonical : Obligations.StepKeepsBuffersCanonical :=
  fun _ _ hs h => step_keeps_storage (fun _ => .rfl) (fun _ _ hs => hs.acceptBeat) (fun h hs => hs.completion h)
    (fun h hs => hs.issue h) (fun _ _ => ⟨rfl, List.forall_mem_nil _, rfl, List.forall_mem_nil _⟩) h hs

/-- No command changes `BUSY`: the engine does, around it (60 R236). -/
theorem exec_busy_params {i : Instr} {s t : State} (h : exec i s = .next t) : t.busy = s.busy ∧ t.params = s.params := by
  cases exec_cases h <;> simp

/-- The command of a word is the command of the latch it loads (60 R236). -/
theorem latchedInstr_loadLatch {w : Word} {i : Instr} (h : decodeWord w = .ok i) (s : State) :
    latchedInstr (loadLatch w s) = some i := by
  unfold decodeWord at h
  split at h
  · cases h
  · split at h
    · rename_i j hj
      cases h
      exact hj
    · cases h

/-- An idle engine holds whatever its latch does. -/
theorem EngineHolds.of_idle {s : State} (h : s.busy = false) : EngineHolds s := fun hb => absurd (h.symm.trans hb) (by decide)

/-- An idle engine's latched length is not read. -/
theorem LatchedLength.of_idle {s : State} (h : s.busy = false) : LatchedLength s :=
  fun hb => absurd (h.symm.trans hb) (by decide)

/-- After a completion the engine is idle. -/
theorem completionEvent_busy {s t : State} (h : completionEvent s = .next t) : t.busy = false := by
  obtain ⟨hb, rfl⟩ | ⟨-, i, u, -, -, rfl⟩ := completionEvent_cases h
  · exact hb
  · rfl

theorem completionEvent_params {s t : State} (h : completionEvent s = .next t) : t.params = s.params := by
  obtain ⟨-, rfl⟩ | ⟨-, i, u, -, hexec, rfl⟩ := completionEvent_cases h
  · rfl
  · exact (exec_busy_params hexec).2

/-- What an issue does to the engine: nothing while it is busy; else it stays idle, or it is busy with a multi-cycle command and
the `BITLEN` of the issue (60 R236, R237, 44 R190). -/
theorem issue_engine {w : Word} {s t : State} (h : issue w s = .next t) :
    t.params = s.params ∧
      (t = raiseIrq irqDrop s ∨ t.busy = false ∨
        ∃ i, latchedInstr t.latch = some i ∧ i.isMultiCycle = true ∧ t.latch.bitlen = bitLen t) := by
  obtain ⟨-, rfl⟩ | ⟨hb, -, rfl⟩ | ⟨-, i, hi, hm, rfl⟩ | ⟨hb, i, -, -, hexec⟩ := issue_cases h
  · exact ⟨rfl, .inl rfl⟩
  · exact ⟨rfl, .inr (.inl hb)⟩
  · exact ⟨rfl, .inr (.inr ⟨i, latchedInstr_loadLatch hi s, hm, rfl⟩)⟩
  · obtain ⟨hbusy, hparams⟩ := exec_busy_params hexec
    exact ⟨hparams, .inr (.inl (hbusy.trans hb))⟩

theorem EngineHolds.issue {w : Word} {s t : State} (h : issue w s = .next t) (hs : EngineHolds s) : EngineHolds t := by
  obtain ⟨-, rfl | hidle | ⟨i, hi, hm, -⟩⟩ := issue_engine h
  · exact hs
  · exact of_idle hidle
  · exact fun _ => ⟨i, hi, hm⟩

theorem LatchedLength.issue {w : Word} {s t : State} (h : issue w s = .next t) (hs : LatchedLength s) : LatchedLength t := by
  obtain ⟨-, rfl | hidle | ⟨-, -, -, hlen⟩⟩ := issue_engine h
  · exact hs
  · exact of_idle hidle
  · exact fun _ => Nat.le_of_eq hlen

/-- A beat leaves the engine alone. -/
theorem acceptBeat_engine (b : Beat) (s : State) :
    (acceptBeat b s).busy = s.busy ∧ (acceptBeat b s).latch = s.latch := by
  apply acceptBeat_keeps (fun t => t.busy = s.busy ∧ t.latch = s.latch) <;> intros <;> simp

/-- A commit writes the cell at `BITCNT`, if BITBUF has it, and no other (42 R160, R164). -/
theorem cellsGet_commit (p : Polarity) (b : Beat) (s : State) (i : Nat) :
    cellsGet i (commit p b s).bitbuf =
      if i = s.bitcnt.toNat ∧ i < s.params.bitbufDepth then some (bitOf p) else cellsGet i s.bitbuf := by
  rw [commit_bitbuf]
  by_cases hi : i = s.bitcnt.toNat
  · subst hi
    split <;> simp [*]
  · split
    · simp [cellsGet_set, hi]
    · simp [hi]

/-- A beat keeps every bit of the BitString: it grows at its end only (20_memory R86, 42 R160). -/
theorem acceptBeat_keeps_bits (b : Beat) {s : State} {i : Nat} (hi : i < bitLen s) :
    i < bitLen (acceptBeat b s) ∧ bitRead (acceptBeat b s) i = bitRead s i := by
  apply acceptBeat_keeps (fun t => i < bitLen t ∧ bitRead t i = bitRead s i)
  case hcommit =>
    intro _ _ _
    simp only [bitLen, Nat.lt_min] at hi
    obtain ⟨hcnt, hdepth⟩ := hi
    refine ⟨by simp [bitLen, satSucc32_toNat]; omega, ?_⟩
    simp [bitRead, -commit_bitbuf, cellsGet_commit, Nat.ne_of_lt hcnt]
  all_goals
    intros
    simpa [bitLen, bitRead] using hi

theorem LatchedLength.acceptBeat {b : Beat} {s : State} (hs : LatchedLength s) : LatchedLength (acceptBeat b s) := by
  obtain ⟨hbusy, hlatch⟩ := acceptBeat_engine b s
  intro hb
  rw [hlatch]
  have hgrow : bitLen s ≤ bitLen (Machine.acceptBeat b s) :=
    Nat.le_of_not_lt fun hlt => Nat.lt_irrefl _ (acceptBeat_keeps_bits b hlt).1
  exact Nat.le_trans (hs (hbusy ▸ hb)) hgrow

theorem LatchedLength.takeBeat {s : State} (hs : LatchedLength s) : LatchedLength (takeBeat s) := by
  obtain heq | ⟨b, rest, heq⟩ := takeBeat_eq s <;> rw [heq]
  · exact hs
  · exact acceptBeat hs

/-- Settles O50: only an issue makes the engine busy, with the command and the `BITLEN` it latches; until the completion the latch
stays and the BitString only grows. -/
theorem stepKeepsEngineHolding : Obligations.StepKeepsEngineHolding := by
  refine ⟨fun s t hs h => ?_, fun s t hs h => ?_⟩
  · refine step_keeps_storage (P := fun u => EngineHolds u ∧ u.params = s.params) (fun _ => .rfl) ?_ ?_ ?_ ?_ h ⟨hs, rfl⟩
    · intro b u ⟨hu, hp⟩
      obtain ⟨hbusy, hlatch⟩ := acceptBeat_engine b u
      exact ⟨by rwa [EngineHolds, hbusy, hlatch], (acceptBeat_params b u).trans hp⟩
    · intro u v h ⟨hu, hp⟩
      exact ⟨.of_idle (completionEvent_busy h), (completionEvent_params h).trans hp⟩
    · intro w u v h ⟨hu, hp⟩
      exact ⟨hu.issue h, (issue_engine h).1.trans hp⟩
    · exact fun u ⟨_, hp⟩ => ⟨.of_idle rfl, hp⟩
  · exact step_keeps_storage (fun _ => .rfl) (fun _ _ hs => hs.acceptBeat) (fun h _ => .of_idle (completionEvent_busy h))
      (fun h hs => hs.issue h) (fun _ _ => .of_idle rfl) h hs

end Sys2Proof.Machine
end

section
/-! PROOFS. The BitString in BITBUF (20_memory R76, R77, 42 R160, R164): its bits are stored, and nothing reads the stale ones
above it. The second is a simulation: every event runs alike from two states that are `SameButStale` (`RunAlike`). -/

namespace Sys2Proof.Machine

theorem bitsStored_capture : CaptureProperty BitsStored where
  view _ := .rfl
  restarted _ _ _ _ _ := by simp [BitsStored, bitLen, restart]

/-- The bit a beat commits is stored where BITBUF has room for it, and the bits below it stay (42 R160). -/
theorem BitsStored.acceptBeat {b : Beat} {s : State} (hs : BitsStored s) : BitsStored (acceptBeat b s) := by
  apply acceptBeat_keeps
  case hcommit =>
    intro _ _ _ i hi
    obtain ⟨hcnt, hdepth⟩ : i ≤ s.bitcnt.toNat ∧ i < s.params.bitbufDepth := by
      simp [bitLen, satSucc32_toNat] at hi
      omega
    by_cases hlast : i = s.bitcnt.toNat
    · have hroom : s.bitcnt.toNat < s.params.bitbufDepth := hlast ▸ hdepth
      simp [hlast, hroom]
    · simpa [-commit_bitbuf, cellsGet_commit, hlast] using hs i (Nat.lt_min.2 ⟨by omega, hdepth⟩)
  all_goals
    intros
    simpa [BitsStored, bitLen] using hs

/-- A power of two is no saturated count. -/
theorem bitbufDepth_ne_saturated (p : Params) : p.bitbufDepth ≠ 0xFFFFFFFF := by
  unfold Params.bitbufDepth
  cases p.bbLog2 with
  | zero => decide
  | succ k => omega

theorem overflowMeaning_capture : CaptureProperty OverflowMeaning where
  view _ := .rfl
  restarted _ _ _ _ _ := by simp [OverflowMeaning, restart]

/-- A commit that finds BITBUF full counts past its depth; at saturation it already had (42 R160, R164). -/
theorem OverflowMeaning.acceptBeat {b : Beat} {s : State} (hs : OverflowMeaning s) : OverflowMeaning (acceptBeat b s) := by
  unfold OverflowMeaning at hs
  apply acceptBeat_keeps
  case hcommit =>
    intro _ _ _
    have hdepth := bitbufDepth_ne_saturated s.params
    have hcnt := s.bitcnt.isLt
    by_cases hroom : s.bitcnt.toNat < s.params.bitbufDepth
    · have hbefore : ¬ s.params.bitbufDepth < s.bitcnt.toNat := by omega
      have hafter : ¬ s.params.bitbufDepth < (satSucc32 s.bitcnt).toNat := by
        rw [satSucc32_toNat]
        omega
      simp [OverflowMeaning, hs, hroom, hbefore, hafter]
    · have hafter : s.params.bitbufDepth < (satSucc32 s.bitcnt).toNat := by
        rw [satSucc32_toNat]
        omega
      simp [OverflowMeaning, hroom, hafter]
  all_goals
    intros
    simpa [OverflowMeaning] using hs

/-- Settles O52: a restart empties the BitString, and a committing beat stores its bit or sets `OVF`. -/
theorem stepKeepsBitsStored : Obligations.StepKeepsBitsStored :=
  fun _ _ hs hovf h => ⟨bitsStored_capture.step_of_beat (fun _ _ hs => hs.acceptBeat) h hs,
    overflowMeaning_capture.step_of_beat (fun _ _ hs => hs.acceptBeat) h hovf⟩

section Stale
variable {s s' t t' : State}

theorem SameButStale.refl (s : State) : SameButStale s s := ⟨rfl, fun _ _ => rfl⟩

/-- States alike differ in BITBUF's cells alone. -/
theorem SameButStale.cells (h : SameButStale s s') : ∃ cells, s' = { s with bitbuf := cells } := ⟨_, h.1⟩

/-- An update that neither reads nor writes BITBUF and does not lengthen the BitString keeps two states alike. -/
theorem SameButStale.update (h : SameButStale s s') (heq : t' = { t with bitbuf := s'.bitbuf } := by rfl)
    (hbuf : t.bitbuf = s.bitbuf := by rfl) (hlen : bitLen t ≤ bitLen s := by exact Nat.le_refl _) : SameButStale t t' := by
  subst heq
  refine ⟨rfl, fun i hi => ?_⟩
  rw [bitRead, hbuf]
  exact h.2 i (Nat.lt_of_lt_of_le hi hlen)

/-- The `BITLEN` of states alike is the same. -/
theorem SameButStale.bitLen_eq (h : SameButStale s s') : bitLen s' = bitLen s := by
  rw [h.1]
  rfl

/-- The BITBUF window shows no stale bit (20_memory R77). -/
theorem SameButStale.bitWindowWord_eq (h : SameButStale s s') (k : Nat) : bitWindowWord k s' = bitWindowWord k s := by
  have hbit : ∀ i w, (if i < bitLen s then (bitRead s' i).toNat * w else 0) =
      if i < bitLen s then (bitRead s i).toNat * w else 0 := by
    intro i w
    split
    · rw [h.2 i ‹_›]
    · rfl
  simp only [bitWindowWord, h.bitLen_eq, hbit]

/-- No host read shows a stale bit (93 I6). -/
theorem SameButStale.readWord_eq (h : SameButStale s s') (offset : BitVec 16) : readWord offset s' = readWord offset s := by
  unfold readWord
  split
  · rename_i r _
    rw [h.1]
    cases r <;> rfl
  · rfl
  · exact h.bitWindowWord_eq _
  · rw [h.1]
    rfl

/-- An octet is its eight bits. -/
theorem octetOf_congr {f g : Nat → Bool} (h : ∀ k, k < 8 → f k = g k) : octetOf f = octetOf g := by
  have hrange : List.range 8 = [0, 1, 2, 3, 4, 5, 6, 7] := rfl
  simp only [octetOf, hrange, List.foldl_cons, List.foldl_nil, h 0 (by decide), h 1 (by decide), h 2 (by decide),
    h 3 (by decide), h 4 (by decide), h 5 (by decide), h 6 (by decide), h 7 (by decide)]

/-- The octets of a range within the BitString hold no stale bit (45 R200). -/
theorem SameButStale.srcOctets_eq (h : SameButStale s s') (src len : Word) (r : Bool) :
    srcOctets src len r s' = srcOctets src len r s := by
  unfold srcOctets
  rw [h.bitLen_eq]
  split
  · rfl
  · split
    · rfl
    · rename_i hmul hfit
      refine congrArg _ (List.map_congr_left fun i hi => congrArg _ (octetOf_congr fun k hk => (h.2 _ ?_).symm))
      rw [List.mem_range] at hi
      omega

/-- A place within the BitString matches the pattern or not by its bits alone (44 R191). -/
theorem SameButStale.patternAt_eq (h : SameButStale s s') {k : Nat} (hk : k + 48 ≤ bitLen s) :
    patternAt s' k = patternAt s k := by
  unfold patternAt
  rw [Bool.eq_iff_iff, List.all_eq_true, List.all_eq_true]
  refine forall₂_congr fun j hj => ?_
  have hj : j < 48 := List.mem_range.1 hj
  rw [h.2 (k + j) (by omega)]

/-- A search within the BitString meets no stale bit (44 R190). -/
theorem SameButStale.firstMatch_eq (h : SameButStale s s') (hlen : s.latch.bitlen ≤ bitLen s) :
    firstMatch s' = firstMatch s := by
  have hlatch : s'.latch = s.latch := by rw [h.1]
  refine Option.ext fun k => ?_
  rw [firstMatch_eq_some, firstMatch_eq_some, hlatch]
  refine and_congr_right fun hk => ?_
  rw [h.patternAt_eq (Nat.le_trans hk hlen)]
  refine and_congr_right fun _ => forall₂_congr fun j hj => ?_
  rw [h.patternAt_eq (by omega)]

/-- The second outcome is as the first, stale bits apart, if the first is a next state. -/
def RunAlike (o o' : Host.Outcome State Fault Refusal) : Prop :=
  ∀ t, o = .next t → ∃ t', o' = .next t' ∧ SameButStale t t'

theorem SameButStale.next (h : SameButStale s s') : RunAlike (.next s) (.next s') := by
  rintro t ⟨⟩
  exact ⟨s', rfl, h⟩

theorem RunAlike.fault {r : Fault} {o : Host.Outcome State Fault Refusal} : RunAlike (.fault r) o :=
  fun _ h => nomatch h

theorem RunAlike.andThen {o o' : Host.Outcome State Fault Refusal} {f : State → Host.Outcome State Fault Refusal}
    (h : RunAlike o o') (hf : ∀ u u', SameButStale u u' → RunAlike (f u) (f u')) :
    RunAlike (andThen o f) (andThen o' f) := by
  cases o with
  | next u =>
    obtain ⟨u', rfl, hu⟩ := h u rfl
    exact hf u u' hu
  | fault r => exact .fault
  | refused r => exact fun _ h => nomatch h

/-- Storing into OUTBUF is independent of BITBUF. -/
theorem outWriteAll_with_bitbuf (i : Nat) (bytes : List Byte) (s : State) (cells : List (Nat × Bool)) :
    outWriteAll i bytes { s with bitbuf := cells } = { outWriteAll i bytes s with bitbuf := cells } := by
  induction bytes generalizing i s with
  | nil => rfl
  | cons b rest ih => exact ih (i + 1) (outWrite i b s)

theorem SameButStale.storeOut (h : SameButStale s s') (bytes : List Byte) :
    SameButStale (storeOut bytes s) (storeOut bytes s') := by
  obtain ⟨cells, rfl⟩ := h.cells
  simp only [Machine.storeOut]
  split
  · exact h.update
  · refine h.update ?_ (by simp) (by simp [bitLen])
    rw [outWriteAll_with_bitbuf]
    rfl

/-- A command runs alike: what it reads of BITBUF lies within the BitString, if the latched length does. -/
theorem SameButStale.exec (h : SameButStale s s') (hlen : s.latch.bitlen ≤ bitLen s) (i : Instr) :
    RunAlike (exec i s) (exec i s') := by
  have hmatch := h.firstMatch_eq hlen
  have hsrc := h.srcOctets_eq
  obtain ⟨cells, rfl⟩ := h.cells
  cases i with
  | nop => exact h.update.next
  | clear => exact (h.update (hlen := by simp [bitLen])).next
  | decode =>
    simp only [Machine.exec, execDecode_eq]
    split
    · exact (h.update (hlen := by simp [bitLen])).next
    · exact h.update.next
  | sign => exact h.update.next
  | clamp =>
    simp only [Machine.exec, execClamp]
    split
    · exact h.update.next
    · exact h.update.next
  | edge => exact h.update.next
  | locate =>
    simp only [Machine.exec, execLocate_eq, hmatch]
    split
    · exact h.update.next
    · split
      · exact h.update.next
      · exact h.update.next
  | chunk r =>
    simp only [Machine.exec, execChunk_eq, hsrc]
    split
    · exact h.update.next
    · split
      · exact h.update.next
      · exact (h.storeOut _).next
  | revb => exact h.update.next
  | hexb pad => exact (h.storeOut _).next
  | addr r pad =>
    simp only [Machine.exec, execAddr_eq, hsrc]
    split
    · exact h.update.next
    · split
      · exact h.update.next
      · exact (h.storeOut _).next

/-- The completion runs its command alike (60 R236). -/
theorem SameButStale.completion (h : SameButStale s s') (hlen : LatchedLength s) :
    RunAlike (completionEvent s) (completionEvent s') := by
  have hexec := fun hb => h.exec (hlen hb)
  obtain ⟨cells, rfl⟩ := h.cells
  simp only [completionEvent]
  split
  · rename_i hb
    split
    · exact .fault
    · rename_i i _
      refine RunAlike.andThen (hexec hb i) fun u u' hu => ?_
      obtain ⟨cells', rfl⟩ := hu.cells
      exact hu.update.next
  · exact h.next

/-- An issue runs alike: the latched length is that of the BitString. -/
theorem SameButStale.issue (h : SameButStale s s') (w : Word) : RunAlike (issue w s) (issue w s') := by
  obtain ⟨cells, rfl⟩ := h.cells
  simp only [Machine.issue]
  split
  · exact h.update.next
  · split
    · exact h.update.next
    · split
      · exact h.update.next
      · exact SameButStale.exec h.update (Nat.le_refl _) _

/-- A host write runs alike. -/
theorem SameButStale.writeWord (h : SameButStale s s') (offset : BitVec 16) (data : Word) :
    RunAlike (writeWord offset data s) (writeWord offset data s') := by
  unfold Machine.writeWord
  split
  · rename_i r _
    have hissue := h.issue data
    obtain ⟨cells, rfl⟩ := h.cells
    cases r with
    | cmd => exact hissue
    | edgeThr | gapThr =>
      simp only [writeReg, thresholdWrite]
      split
      all_goals exact h.update.next
    | _ => exact h.update.next
  all_goals exact h.next

/-- A host access runs alike, and a read records the same word. -/
theorem SameButStale.hostAccess (h : SameButStale s s') (op : Option HostOp) : RunAlike (hostAccess op s) (hostAccess op s') := by
  unfold Machine.hostAccess
  split
  · exact h.next
  · rename_i offset
    rw [h.readWord_eq]
    obtain ⟨cells, rfl⟩ := h.cells
    exact h.update.next
  · exact h.writeWord _ _

/-- A commit writes the same bit into both (42 R160). -/
theorem SameButStale.commit (h : SameButStale s s') (p : Polarity) (b : Beat) :
    SameButStale (commit p b s) (commit p b s') := by
  have hbits := h.2
  obtain ⟨cells, rfl⟩ := h.cells
  refine ⟨by rw [commit_eq, commit_eq]; rfl, fun i hi => ?_⟩
  simp only [bitRead, cellsGet_commit]
  split
  · rfl
  · rename_i hne
    simp only [bitLen, commit_bitcnt, commit_params, satSucc32_toNat] at hi
    exact hbits i (by rw [bitLen]; omega)

/-- The end of a beat leaves BITBUF alone. -/
theorem SameButStale.finishBeat (h : SameButStale s s') (c : Option (Bool × Word)) (b : Beat) :
    SameButStale (finishBeat c b s) (finishBeat c b s') := by
  obtain ⟨cells, rfl⟩ := h.cells
  refine h.update ?_ (finishBeat_bitbuf c b s) (by simp [bitLen])
  rw [finishBeat_eq, finishBeat_eq]
  cases c <;> rfl

/-- A beat in RUN terminates, commits or passes alike: no register of the decoder is stale. -/
theorem SameButStale.runStep (h : SameButStale s s') (b : Beat) : SameButStale (runStep b s) (runStep b s') := by
  obtain ⟨cells, rfl⟩ := h.cells
  obtain ⟨ht, heq⟩ | ⟨ht, hq, heq⟩ | ⟨ht, hq, heq⟩ := runStep_cases b s <;> rw [heq]
  · rw [runStep_terminates b { s with bitbuf := cells } ht]
    exact finishBeat h.update none b
  · rw [runStep_commits b { s with bitbuf := cells } ht hq]
    have hadvance : SameButStale (advanceCounts s) (advanceCounts { s with bitbuf := cells }) := h.update
    obtain ⟨hsame, hbits⟩ := hadvance.commit (beatPolarity s.params b) b
    refine finishBeat ?_ _ b
    exact ⟨by rw [hsame], hbits⟩
  · rw [runStep_passes b { s with bitbuf := cells } ht hq]
    exact finishBeat h.update none b

theorem SameButStale.acceptBeat (h : SameButStale s s') (b : Beat) : SameButStale (acceptBeat b s) (acceptBeat b s') := by
  have hrun := h.runStep b
  have hdrain := h.finishBeat none b
  obtain ⟨cells, rfl⟩ := h.cells
  simp only [Machine.acceptBeat]
  split
  · exact h
  · exact hrun
  · exact hdrain

theorem SameButStale.takeBeat (h : SameButStale s s') : SameButStale (takeBeat s) (takeBeat s') := by
  obtain ⟨cells, rfl⟩ := h.cells
  simp only [Machine.takeBeat]
  split
  · exact h
  · have hready : sReady { s with bitbuf := cells } = sReady s := rfl
    rw [hready]
    split
    · exact acceptBeat h.update _
    · exact h

/-- The events of a cycle run alike, one after the other (20_memory R83). -/
theorem SameButStale.runCycle (h : SameButStale s s') (hlen : LatchedLength s) (c : Cycle) :
    RunAlike (runCycle c s) (runCycle c s') := by
  obtain ⟨hbeat, hlen⟩ :
      SameButStale (if c.sValid then Machine.takeBeat s else s) (if c.sValid then Machine.takeBeat s' else s') ∧
      LatchedLength (if c.sValid then Machine.takeBeat s else s) := by
    split
    · exact ⟨h.takeBeat, hlen.takeBeat⟩
    · exact ⟨h, hlen⟩
  refine RunAlike.andThen ?_ fun u u' hu => hu.hostAccess c.host
  split
  · exact hbeat.completion hlen
  · exact hbeat.next

/-- A reset forgets BITBUF (70 R262). -/
theorem SameButStale.resetCycle_eq (h : SameButStale s s') (op : Option HostOp) : resetCycle op s' = resetCycle op s := by
  obtain ⟨cells, rfl⟩ := h.cells
  unfold resetCycle
  split <;> rfl

theorem SameButStale.step (h : SameButStale s s') (hlen : LatchedLength s) : RunAlike (step s) (step s') := by
  have hbegin : SameButStale (beginCycle s) (beginCycle s') := by
    obtain ⟨cells, rfl⟩ := h.cells
    exact h.update
  have hcycle : nextCycle s' = nextCycle s := by
    rw [h.1]
    rfl
  unfold Machine.step clockCycle
  rw [hcycle]
  split
  · rw [hbegin.resetCycle_eq]
    exact (refl _).next
  · exact hbegin.runCycle hlen _

end Stale

/-- Settles O59: no read looks above the BitString, and every event writes the same bits into both states. -/
theorem staleBitsAreNeverObservable : Obligations.StaleBitsAreNeverObservable := by
  intro s s' hlen h
  refine ⟨fun offset => (h.readWord_eq offset).symm, ?_, h.step hlen⟩
  rw [h.1]
  rfl

end Sys2Proof.Machine
end

section
/-! PROOFS. The register space as the host sees it (20_memory R70 to R73, R77, R79, R82): the map by word addresses, the two read
windows, and the places that ignore a write. -/

namespace Sys2Proof.Machine

/-- The map reads the word address alone (20_memory R70). -/
theorem placeOf_congr {a b : BitVec 16} (h : a.toNat / 4 = b.toNat / 4) : placeOf a = placeOf b := by
  simp only [placeOf, h]

/-- Settles O38: the offset with its low two bits cleared has the same word address. -/
theorem lowAddressBitsAreIgnored : Obligations.LowAddressBitsAreIgnored := by
  intro s offset w
  have hplace : placeOf offset = placeOf (BitVec.ofNat 16 (4 * (offset.toNat / 4))) := by
    apply placeOf_congr
    rw [BitVec.toNat_ofNat]
    omega
  exact ⟨by rw [readWord, readWord, hplace], by rw [writeWord, writeWord, hplace]⟩

/-- The BITBUF window (20_memory R71). -/
theorem placeOf_bitWindow {k : Nat} (hk : k < 4096) : placeOf (BitVec.ofNat 16 (0x4000 + 4 * k)) = .bitWindow k := by
  have haddr : (BitVec.ofNat 16 (0x4000 + 4 * k)).toNat / 4 = k + 0x4000 / 4 := by
    rw [BitVec.toNat_ofNat]
    omega
  have hlow : ¬ k + 0x4000 / 4 < 0x4000 / 4 := by omega
  have hhigh : k + 0x4000 / 4 < 0x8000 / 4 := by omega
  simp only [placeOf, haddr, hlow, hhigh, if_true, if_false, Nat.add_sub_cancel]

/-- The OUTBUF window (20_memory R71). -/
theorem placeOf_outWindow {k : Nat} (hk : k < 8192) : placeOf (BitVec.ofNat 16 (0x8000 + 4 * k)) = .outWindow k := by
  have haddr : (BitVec.ofNat 16 (0x8000 + 4 * k)).toNat / 4 = k + 0x8000 / 4 := by
    rw [BitVec.toNat_ofNat]
    omega
  have hlow : ¬ k + 0x8000 / 4 < 0x4000 / 4 := by omega
  have hhigh : ¬ k + 0x8000 / 4 < 0x8000 / 4 := by omega
  simp only [placeOf, haddr, hlow, hhigh, if_false, Nat.add_sub_cancel]

/-- A word summed up bit by bit, each with its weight, has these bits. -/
theorem testBit_foldl_bits (f : Nat → Bool) (n : Nat) :
    let sum := (List.range n).foldl (fun acc j => acc + (f j).toNat * 2 ^ j) 0
    sum < 2 ^ n ∧ ∀ i, i < n → sum.testBit i = f i := by
  induction n with
  | zero => simp
  | succ n ih =>
    simp only [List.range_succ, List.foldl_append, List.foldl_cons, List.foldl_nil]
    generalize (List.range n).foldl _ 0 = low at ih ⊢
    obtain ⟨hlow, hbits⟩ := ih
    rw [Nat.add_comm, Nat.mul_comm]
    refine ⟨?_, fun i hi => ?_⟩
    · have hbit := Nat.mul_le_mul_left (2 ^ n) (f n).toNat_le
      rw [Nat.pow_succ]
      omega
    · rw [Nat.testBit_two_pow_mul_add _ hlow]
      split
      · exact hbits i ‹_›
      · obtain rfl : i = n := by omega
        cases f i <;> simp

/-- A word of the BITBUF window, bit by bit (20_memory R77). -/
theorem bitWindowWord_getLsbD (k : Nat) (s : State) {j : Nat} (hj : j < 32) :
    (bitWindowWord k s).getLsbD j = (decide (32 * k + j < bitLen s) && bitRead s (32 * k + j)) := by
  have hsum := testBit_foldl_bits (fun j => decide (32 * k + j < bitLen s) && bitRead s (32 * k + j)) 32
  have hbit : ∀ i j, (if i < bitLen s then (bitRead s i).toNat * 2 ^ j else 0) =
      (decide (i < bitLen s) && bitRead s i).toNat * 2 ^ j := by
    intro i j
    split <;> simp [*]
  simp only [bitWindowWord, hbit, BitVec.getLsbD_ofNat, hj, decide_true, Bool.true_and]
  exact hsum.2 j hj

/-- Settles O36: the window's word is the sum of its bits, and a beat only extends the BitString. -/
theorem bitbufWindowShowsTheBitString : Obligations.BitbufWindowShowsTheBitString := by
  refine ⟨fun s k hk => ⟨fun j hj => ?_, fun w => ?_⟩, fun s i hi => ?_⟩
  · rw [readWord, placeOf_bitWindow hk]
    exact bitWindowWord_getLsbD k s hj
  · rw [writeWord, placeOf_bitWindow hk]
  · obtain heq | ⟨b, rest, heq⟩ := takeBeat_eq s <;> rw [heq]
    · exact ⟨hi, rfl⟩
    · exact acceptBeat_keeps_bits b (s := { s with source := rest }) hi

/-- A word of the OUTBUF window, byte by byte (20_memory R79). -/
theorem outWindowWord_byte (k : Nat) (s : State) {j : Nat} (hj : j < 4) :
    (outWindowWord k s).extractLsb' (8 * j) 8 = outWindowByte (4 * k + j) j s := by
  unfold outWindowWord
  match j, hj with
  | 0, _ => exact BitVec.extractLsb'_append_eq_right
  | 1, _ => exact (BitVec.extractLsb'_append_eq_of_le (by decide)).trans BitVec.extractLsb'_append_eq_right
  | 2, _ =>
    exact (BitVec.extractLsb'_append_eq_of_le (by decide)).trans
      ((BitVec.extractLsb'_append_eq_of_le (by decide)).trans BitVec.extractLsb'_append_eq_right)
  | 3, _ =>
    exact (BitVec.extractLsb'_append_eq_of_le (by decide)).trans
      ((BitVec.extractLsb'_append_eq_of_le (by decide)).trans BitVec.extractLsb'_append_eq_left)

/-- Settles O37: the window's word is its four bytes side by side. -/
theorem outbufWindowShowsTheBytes : Obligations.OutbufWindowShowsTheBytes := by
  refine fun s k hk => ⟨fun j hj => ?_, fun w => ?_⟩
  · rw [readWord, placeOf_outWindow hk]
    exact outWindowWord_byte k s hj
  · rw [writeWord, placeOf_outWindow hk]

/-- A cycle with a host access and nothing else is that access (20_memory R83). -/
theorem step_hostCycle {s : State} {op : HostOp} {rest : List Cycle} (h : s.inputs = hostCycle op :: rest) :
    step s = hostAccess (some op) (beginCycle s) := by
  simp [step, clockCycle, nextCycle, h, hostCycle, runCycle, andThen]

/-- Settles O35: the cycle is its read, and a read moves the two records alone. -/
theorem readsHaveNoSideEffects : Obligations.ReadsHaveNoSideEffects := by
  intro s offset rest h
  rw [step_hostCycle h, beginCycle, h]
  rfl

/-- A mask that meets neither of two fields side by side meets nothing. -/
theorem append_and_append_eq_zero {m n : Nat} {x mx : BitVec m} {y my : BitVec n} (hx : x &&& mx = 0) (hy : y &&& my = 0) :
    (x ++ y) &&& (mx ++ my) = 0 := by
  rw [BitVec.and_append, hx, hy]
  exact BitVec.zero_append_zero

/-- A field of `n` bits that stands alone in its word leaves the bits above it 0. -/
theorem setWidth_and_high_eq_zero {n : Nat} (x : BitVec n) : x.setWidth 32 &&& (BitVec.allOnes 32 <<< n) = 0 := by
  ext i hi
  by_cases hle : n ≤ i
  · simp [BitVec.getLsbD_of_ge x i hle]
  · simp [hle]

/-- The reserved bits of `PARAMS` are 0 (10_state R25). -/
theorem paramsWord_reserved (p : Params) : paramsWord p &&& 0x80C0E0E0 = 0 := by
  have hmask : (0x80C0E0E0 : Word) = 1#1 ++ 0#7 ++ 3#2 ++ 0#6 ++ 7#3 ++ 0#5 ++ 7#3 ++ 0#5 := rfl
  rw [hmask, paramsWord]
  repeat' apply append_and_append_eq_zero
  all_goals simp

/-- The reserved bits of `STATUS` are 0 (10_state R27). -/
theorem statusWord_reserved (s : State) : statusWord s &&& 0xFFFFFF80 = 0 := by
  have hmask : (0xFFFFFF80 : Word) = 0x1FFFFFF#25 ++ 0#1 ++ 0#1 ++ 0#1 ++ 0#1 ++ 0#1 ++ 0#2 := rfl
  rw [hmask, statusWord]
  repeat' apply append_and_append_eq_zero
  all_goals simp

/-- The reserved bits of `ALIGN_STATE` are 0 (10_state R49). -/
theorem alignStateWord_reserved (s : State) : alignStateWord s &&& 0xFFFF00FC = 0 := by
  have hmask : (0xFFFF00FC : Word) = 0xFFFF#16 ++ 0#8 ++ 0x3F#6 ++ 0#1 ++ 0#1 := rfl
  rw [hmask, alignStateWord]
  repeat' apply append_and_append_eq_zero
  all_goals simp

/-- There are 28 registers (10_state R22). -/
theorem regAt_eq_none {k : Nat} : regAt k = none ↔ 28 ≤ k := by
  simp [regAt]

/-- From 0x070 to the windows every offset is reserved (20_memory R71). -/
theorem placeOf_reserved {offset : BitVec 16} (hlo : 0x070 ≤ offset.toNat) (hhi : offset.toNat < 0x4000) :
    placeOf offset = .reserved := by
  have hnone : regAt (offset.toNat / 4) = none := regAt_eq_none.2 (by omega)
  have hlow : offset.toNat / 4 < 0x4000 / 4 := by omega
  simp only [placeOf, hlow, hnone, if_true]

/-- The registers a host write leaves alone (10_state R22). -/
def readOnlyRegs : List Reg :=
  [.id, .version, .params, .status, .err, .tcnt, .gapcnt, .lastpol, .bitcnt, .bitlen, .sidx, .frameOffset, .outlen, .result,
   .alignState, .aidx]

/-- A write to a read-only register is ignored (20_memory R73). -/
theorem writeReg_readOnly {r : Reg} (h : r ∈ readOnlyRegs) (w : Word) (s : State) : writeReg r w s = .next s := by
  revert r
  simp [readOnlyRegs, writeReg]

/-- Above the registers a write is ignored, be the offset reserved or in a window (20_memory R73). -/
theorem writeWord_above_registers {offset : BitVec 16} (h : 0x070 ≤ offset.toNat) (w : Word) (s : State) :
    writeWord offset w s = .next s := by
  unfold writeWord
  split
  · rename_i r hr
    have hnone : regAt (offset.toNat / 4) = none := regAt_eq_none.2 (by omega)
    simp only [placeOf, hnone] at hr
    split at hr
    · cases hr
    · split at hr <;> cases hr
  all_goals rfl

/-- A write to any offset of a read-only register is ignored (20_memory R70, R73). -/
theorem writeWord_readOnly {offset : BitVec 16} {r : Reg} (hr : r ∈ readOnlyRegs)
    (h : (regOffset r).toNat / 4 = offset.toNat / 4) (w : Word) (s : State) : writeWord offset w s = .next s := by
  rw [writeWord, ← placeOf_congr h, placeOf_regOffset]
  exact writeReg_readOnly hr w s

/-- Settles O39: each word's mask meets its zero fields alone, a write reaches only the writable registers, and the locked ones
answer with `DROP`. -/
theorem absentPlacesIgnoreWrites : Obligations.AbsentPlacesIgnoreWrites := by
  have hmask := fun r s (m : Word) => congrArg (· &&& m) (readWord_regOffset r s)
  refine ⟨fun s offset hlo hhi => ?_, fun s => ⟨?_, ?_, ?_, ?_, ?_, ?_, ?_, ?_⟩, readWord_regOffset .cmd,
    fun s offset w h => ?_, fun s w => ⟨fun hd => ?_, fun hd => ?_, fun hb => ?_⟩⟩
  · rw [readWord, placeOf_reserved hlo hhi]
  · exact (hmask .params s _).trans (paramsWord_reserved s.params)
  · exact (hmask .ctrl s _).trans (setWidth_and_high_eq_zero _)
  · exact (hmask .status s _).trans (statusWord_reserved s)
  · exact (hmask .err s _).trans (setWidth_and_high_eq_zero _)
  · exact (hmask .irqStatus s _).trans (setWidth_and_high_eq_zero _)
  · exact (hmask .irqEnable s _).trans (setWidth_and_high_eq_zero _)
  · exact (hmask .lastpol s _).trans (setWidth_and_high_eq_zero _)
  · exact (hmask .alignState s _).trans (alignStateWord_reserved s)
  · obtain h | h := h
    · exact writeWord_above_registers h w s
    · obtain ⟨r, hr, hidx⟩ := List.mem_map.1 (show _ ∈ readOnlyRegs.map fun r => (regOffset r).toNat / 4 from h)
      exact writeWord_readOnly hr hidx w s
  · exact (writeWord_regOffset .edgeThr w s).trans (congrArg _ (thresholdWrite_locked hd))
  · exact (writeWord_regOffset .gapThr w s).trans (congrArg _ (thresholdWrite_locked hd))
  · exact (writeWord_regOffset .cmd w s).trans (if_pos hb)

end Sys2Proof.Machine
end

section
/-! PROOFS. The command word (30_encoding R100 to R105, R109, R110). The opcode map is followed row by row, over the fields as
numbers. A word is its four fields side by side, and so is the mask of the bits a command uses; `decodeWord_eq_ok_iff` says of
every word which command it is: the one whose own word it is on the bits that command uses. -/

namespace Sys2Proof

/-- `OP` as a number (30_encoding R100). -/
theorem opField_toNat (w : Word) : (opField w).toNat = w.toNat % 256 := by
  simp [opField]

/-- `PAD` as a number (30_encoding R102). -/
theorem padField_toNat (w : Word) : (padField w).toNat = w.toNat / 512 % 8 := by
  simp [padField, Nat.shiftRight_eq_div_pow]

/-- `R` as the parity of the bits above `OP` (30_encoding R101). -/
theorem rField_eq_beq (w : Word) : rField w = (w.toNat / 256 % 2 == 1) :=
  (Nat.testBit_eq_decide_div_mod_eq : w.toNat.testBit 8 = _)

/-- The reserved bits as a number (30_encoding R100). -/
theorem reservedField_toNat (w : Word) : (reservedField w).toNat = w.toNat / 4096 := by
  have hw := w.isLt
  simp only [reservedField, BitVec.extractLsb'_toNat, Nat.shiftRight_eq_div_pow]
  omega

theorem reservedField_eq_zero_iff (w : Word) : reservedField w = 0 ↔ w.toNat / 4096 = 0 := by
  rw [← BitVec.toNat_inj, reservedField_toNat]
  rfl

theorem opField_eq_ofNat_iff (w : Word) {n : Nat} (hn : n < 256) : opField w = BitVec.ofNat 8 n ↔ w.toNat % 256 = n := by
  rw [← BitVec.toNat_inj, opField_toNat, BitVec.toNat_ofNat, Nat.mod_eq_of_lt hn]

/-- The decoder's answer for what the opcode map gives (30_encoding R104). -/
def mapAnswer (o : Option Instr) : Except DecodeError Instr :=
  match o with
  | some i => .ok i
  | none => .error .reservedOpcode

/-- The decoder looks at the reserved bits, then at the opcode map (30_encoding R109). -/
theorem decodeWord_eq_mapAnswer (w : Word) :
    decodeWord w =
      if reservedField w ≠ 0 then .error .reservedBits
      else mapAnswer (decodeFields (opField w) (rField w) (padField w)) := rfl

/-- One row of the opcode map, its test written in another way. -/
theorem mapAnswer_row {c d : Prop} [Decidable c] [Decidable d] (h : c ↔ d) (i : Instr) {rows : Option Instr}
    {e : Except DecodeError Instr} (hrows : mapAnswer rows = e) :
    mapAnswer (if c then some i else rows) = if d then .ok i else e := by
  by_cases hc : c
  · rw [if_pos hc, if_pos (h.1 hc), mapAnswer]
  · rw [if_neg hc, if_neg (mt h.2 hc), hrows]

/-- Settles O4: the reserved bits, then the eleven rows of the map, each test read as one of numbers. -/
theorem decodeIsTheOpcodeMap : Obligations.DecodeIsTheOpcodeMap := by
  intro w
  rw [decodeWord_eq_mapAnswer, decodeFields, padField_toNat, rField_eq_beq]
  refine ite_congr (propext (not_congr (reservedField_eq_zero_iff w))) (fun _ => rfl) fun _ => ?_
  iterate 11 refine mapAnswer_row (opField_eq_ofNat_iff w (by decide)) _ ?_
  rfl

/-- The decoder answers with a command where no reserved bit is set and the opcode map has it. -/
theorem decodeWord_eq_ok_iff_decodeFields {w : Word} {i : Instr} :
    decodeWord w = .ok i ↔ reservedField w = 0 ∧ decodeFields (opField w) (rField w) (padField w) = some i := by
  rw [decodeWord_eq_mapAnswer]
  by_cases h0 : reservedField w = 0
  · rw [if_neg (fun h => h h0)]
    cases decodeFields (opField w) (rField w) (padField w) <;> simp [h0, mapAnswer]
  · rw [if_pos h0]
    exact ⟨nofun, fun h => absurd h.1 h0⟩

/-- What one row of the opcode map says of its command, and the rows after it of theirs, the rows together say. -/
theorem forall_row {c : Prop} [Decidable c] {P : Instr → Prop} {j : Instr} {rows : Option Instr} (hrow : c → P j)
    (hrows : ∀ i, rows = some i → P i) (i : Instr) (h : (if c then some j else rows) = some i) : P i := by
  split at h
  · rename_i hc
    cases h
    exact hrow hc
  · exact hrows i h

/-- The opcode map gives a command only at the command's opcode (30_encoding R103). -/
theorem eq_opcodeOf_of_decodeFields {op : BitVec 8} {r : Bool} {pad : BitVec 3} :
    ∀ i, decodeFields op r pad = some i → op = opcodeOf i := by
  unfold decodeFields
  iterate 11 refine forall_row (P := fun i => op = opcodeOf i) id ?_
  exact fun _ h => nomatch h

/-- The bit of `R` that a command reads (30_encoding R105). -/
def rMask (i : Instr) : BitVec 1 :=
  match i with
  | .chunk _ | .addr _ _ => 1
  | .nop | .clear | .decode | .sign | .clamp | .edge | .locate | .revb | .hexb _ => 0

/-- The bits of `PAD` that a command reads (30_encoding R105). -/
def padMask (i : Instr) : BitVec 3 :=
  match i with
  | .hexb _ | .addr _ _ => 7
  | .nop | .clear | .decode | .sign | .clamp | .edge | .locate | .chunk _ | .revb => 0

/-- The whole of `R` is `R` (30_encoding R101). -/
@[simp] theorem r_and_one (x : BitVec 1) : x &&& 1#1 = x := BitVec.and_allOnes

/-- The whole of `PAD` is `PAD` (30_encoding R102). -/
@[simp] theorem pad_and_seven (x : BitVec 3) : x &&& 7#3 = x := BitVec.and_allOnes

/-- At a command's opcode the map gives the command when it is well-formed and the fields it uses are its own. -/
theorem decodeFields_opcodeOf_iff (i : Instr) (r : Bool) (pad : BitVec 3) :
    decodeFields (opcodeOf i) r pad = some i ↔
      i.wellFormed = true ∧ BitVec.ofNat 3 (padOf i) = pad &&& padMask i ∧
        BitVec.ofBool (rOf i) = BitVec.ofBool r &&& rMask i := by
  have hpad (n : Nat) : pad.toNat = n ↔ padFits n = true ∧ BitVec.ofNat 3 n = pad := by
    rw [BitVec.toNat_eq_nat, padFits, decide_eq_true_iff, eq_comm (a := pad)]
  have hr (b : Bool) : r = b ↔ BitVec.ofBool b = BitVec.ofBool r := BitVec.ofBool_eq_iff_eq.symm.trans eq_comm
  cases i <;>
    simp [decodeFields, opcodeOf, Instr.wellFormed, padOf, rOf, padMask, rMask, hpad, hr, and_comm, and_assoc]

/-- A word is its four fields side by side (30_encoding R100). -/
theorem word_eq_append_fields (w : Word) :
    w = reservedField w ++ padField w ++ BitVec.ofBool (rField w) ++ opField w := by
  have hr : BitVec.ofBool (rField w) = w.extractLsb' 8 1 := by
    rw [rField]
    ext i hi
    obtain rfl : i = 0 := by omega
    simp
  have hpad : reservedField w ++ padField w = w.extractLsb' 9 23 :=
    BitVec.extractLsb'_append_extractLsb'_eq_extractLsb' rfl
  have hrest : w.extractLsb' 9 23 ++ w.extractLsb' 8 1 = w.extractLsb' 8 24 :=
    BitVec.extractLsb'_append_extractLsb'_eq_extractLsb' rfl
  rw [hr, hpad, hrest]
  exact (BitVec.extractLsb'_append_extractLsb' (w := 24) (len := 8) (x := w)).symm

/-- The used bits field by field. -/
theorem usedBits_eq_append (i : Instr) :
    usedBits i = BitVec.allOnes 20 ++ padMask i ++ rMask i ++ BitVec.allOnes 8 := by
  cases i <;> simp only [usedBits, padMask, rMask] <;> decide

/-- Fields side by side are equal when each is. -/
theorem append_eq_append_iff {m n : Nat} {x x' : BitVec m} {y y' : BitVec n} : x ++ y = x' ++ y' ↔ x = x' ∧ y = y' := by
  constructor
  · intro h
    have hx := congrArg (BitVec.extractLsb' n m) h
    have hy := congrArg (BitVec.extractLsb' 0 n) h
    rw [BitVec.extractLsb'_append_eq_left, BitVec.extractLsb'_append_eq_left] at hx
    rw [BitVec.extractLsb'_append_eq_right, BitVec.extractLsb'_append_eq_right] at hy
    exact ⟨hx, hy⟩
  · rintro ⟨rfl, rfl⟩
    rfl

/-- A command's own word is `w` on the bits the command uses when it is so in each field. -/
theorem encode_eq_and_usedBits_iff (i : Instr) (w : Word) :
    encode i = w &&& usedBits i ↔
      reservedField w = 0 ∧ opField w = opcodeOf i ∧ BitVec.ofNat 3 (padOf i) = padField w &&& padMask i ∧
        BitVec.ofBool (rOf i) = BitVec.ofBool (rField w) &&& rMask i := by
  conv => lhs; rw [word_eq_append_fields w, usedBits_eq_append, encode]
  rw [BitVec.and_append, BitVec.and_append, BitVec.and_append, append_eq_append_iff, append_eq_append_iff,
    append_eq_append_iff, BitVec.and_allOnes, BitVec.and_allOnes]
  constructor
  · rintro ⟨⟨⟨h0, hpad⟩, hr⟩, hop⟩
    exact ⟨h0.symm, hop.symm, hpad, hr⟩
  · rintro ⟨h0, hop, hpad, hr⟩
    exact ⟨⟨⟨h0.symm, hpad⟩, hr⟩, hop.symm⟩

/-- Which command a word is: the well-formed one whose own word it is on the bits that the command uses (30_encoding R105). -/
theorem decodeWord_eq_ok_iff {w : Word} {i : Instr} :
    decodeWord w = .ok i ↔ i.wellFormed = true ∧ encode i = w &&& usedBits i := by
  rw [decodeWord_eq_ok_iff_decodeFields, encode_eq_and_usedBits_iff]
  constructor
  · rintro ⟨h0, hi⟩
    have hop := eq_opcodeOf_of_decodeFields i hi
    rw [hop, decodeFields_opcodeOf_iff] at hi
    obtain ⟨hwf, hpad, hr⟩ := hi
    exact ⟨hwf, h0, hop, hpad, hr⟩
  · rintro ⟨hwf, h0, hop, hpad, hr⟩
    rw [hop, decodeFields_opcodeOf_iff]
    exact ⟨h0, hwf, hpad, hr⟩

/-- A command's own word has no bit set but those the command uses. -/
theorem encode_and_usedBits (i : Instr) : encode i &&& usedBits i = encode i := by
  have hpad : BitVec.ofNat 3 (padOf i) &&& padMask i = BitVec.ofNat 3 (padOf i) := by
    cases i <;> simp [padOf, padMask]
  have hr : BitVec.ofBool (rOf i) &&& rMask i = BitVec.ofBool (rOf i) := by
    cases i <;> simp [rOf, rMask]
  rw [usedBits_eq_append, encode, BitVec.and_append, BitVec.and_append, BitVec.and_append, hpad, hr]
  simp only [BitVec.and_allOnes]

/-- The table's numbering of a word is the word's number. -/
theorem decodeTableWord_toNat {w : Word} {i : Instr} (h : decodeWord w = .ok i) : decodeTableWord 32 w.toNat = some i := by
  have hw : w.toNat < 2 ^ 32 := w.isLt
  rw [decodeTableWord, if_pos ⟨Nat.le_refl 32, hw⟩, BitVec.ofNat_toNat, BitVec.setWidth_eq, h]

/-- Settles O2: a command's own word is itself on the bits the command uses. -/
theorem decodeOfEncodeIsTheCommand : Obligations.DecodeOfEncodeIsTheCommand := by
  intro i hwf
  have hdec : decodeWord (encode i) = .ok i := decodeWord_eq_ok_iff.2 ⟨hwf, (encode_and_usedBits i).symm⟩
  exact ⟨hdec, decodeTableWord_toNat hdec⟩

/-- Settles O3: which command a word is rests on the bits the command uses. -/
theorem ignoredBitsDoNotMatter : Obligations.IgnoredBitsDoNotMatter := by
  refine ⟨fun w i h => ?_, rfl, rfl⟩
  obtain ⟨hwf, hword⟩ := decodeWord_eq_ok_iff.1 h
  exact ⟨hwf, hword, fun v hv => decodeWord_eq_ok_iff.2 ⟨hwf, hword.trans hv.symm⟩⟩

/-- The opcodes of the table as numbers (30_encoding R103). -/
theorem opcodeOf_toNat_mem (i : Instr) :
    (opcodeOf i).toNat ∈ [0x00, 0x01, 0x02, 0x10, 0x11, 0x12, 0x20, 0x30, 0x31, 0x32, 0x33] := by
  cases i <;> simp [opcodeOf]

/-- A reserved bit, or an opcode outside the table, makes a word no command (30_encoding R104). -/
theorem exists_decodeWord_eq_error {w : Word}
    (h : 4096 ≤ w.toNat ∨ w.toNat % 256 ∉ [0x00, 0x01, 0x02, 0x10, 0x11, 0x12, 0x20, 0x30, 0x31, 0x32, 0x33]) :
    ∃ e, decodeWord w = .error e := by
  cases hd : decodeWord w with
  | error e => exact ⟨e, rfl⟩
  | ok i =>
    obtain ⟨h0, hi⟩ := decodeWord_eq_ok_iff_decodeFields.1 hd
    have hlow : w.toNat / 4096 = 0 := (reservedField_eq_zero_iff w).1 h0
    have hop : w.toNat % 256 = (opcodeOf i).toNat := by rw [← opField_toNat, eq_opcodeOf_of_decodeFields i hi]
    obtain hhigh | hrow := h
    · omega
    · exact absurd (hop ▸ opcodeOf_toNat_mem i) hrow

/-- Settles O1: each word is the one the assembly table gives its command, `PAD` and `R` included (30_encoding R110). -/
theorem sampleCommandWordsDecode : Obligations.SampleCommandWordsDecode :=
  ⟨rfl, rfl, rfl, rfl, rfl, rfl, rfl, rfl, rfl, rfl, rfl, rfl, rfl, rfl⟩

end Sys2Proof

namespace Sys2Proof.Machine

/-- The latch loaded at an issue, its fields as numbers of the word (10_state R51). -/
theorem loadLatch_eq_latchOf (w : Word) (s : State) : loadLatch w s = latchOf w s := by
  have hop : opField w = BitVec.ofNat 8 (w.toNat % 256) := BitVec.eq_of_toNat_eq (by simp [opField_toNat])
  have hpad : padField w = BitVec.ofNat 3 (w.toNat / 512 % 8) := BitVec.eq_of_toNat_eq (by simp [padField_toNat])
  rw [loadLatch, hop, hpad]
  rfl

/-- The issue of a word that is no command while `BUSY` = 0 (60 R236). -/
theorem issue_of_decodeWord_error {w : Word} {e : DecodeError} {s : State} (hb : s.busy = false) (h : decodeWord w = .error e) :
    issue w s = .next (complete .badCmd { s with latch := loadLatch w s }) := by
  simp [issue, hb, h]

/-- Settles O5: the write is the issue of the word, which completes it as no command. -/
theorem reservedWordCompletesWithBadCmd : Obligations.ReservedWordCompletesWithBadCmd := by
  refine ⟨rfl, fun w s hb h => ?_⟩
  obtain ⟨e, he⟩ := exists_decodeWord_eq_error h
  have hwrite : writeWord 0x014 w s = issue w s := writeWord_regOffset .cmd w s
  rw [hwrite, issue_of_decodeWord_error hb he, loadLatch_eq_latchOf]
  rfl

end Sys2Proof.Machine
end

section
/-! PROOFS. How a command is issued (30_encoding R103, R104, 60 R236, R237), for any row of the opcode map (`issuedAs_of_row`),
and the control commands NOP and CLEAR (40 R130, R131). -/

namespace Sys2Proof.Machine

/-- A command word written while `BUSY` = 1 is dropped (60 R237). -/
theorem issue_of_busy {s : State} (hb : s.busy = true) (w : Word) : issue w s = .next (raiseIrq irqDrop s) := by
  simp [issue, hb]

/-- The issue of a single-cycle command while `BUSY` = 0 runs it on the loaded latch (60 R236). -/
theorem issue_of_singleCycle {w : Word} {i : Instr} {s : State} (hb : s.busy = false) (h : decodeWord w = .ok i)
    (hi : i.isMultiCycle = false) : issue w s = exec i { s with latch := loadLatch w s } := by
  simp [issue, hb, h, hi]

/-- The issue of a multi-cycle command while `BUSY` = 0 latches it (60 R236). -/
theorem issue_of_multiCycle {w : Word} {i : Instr} {s : State} (hb : s.busy = false) (h : decodeWord w = .ok i)
    (hi : i.isMultiCycle = true) : issue w s = .next { s with latch := loadLatch w s, busy := true } := by
  simp [issue, hb, h, hi]

/-- Every word of a row of the opcode map is issued as the command of the row. -/
theorem issuedAs_of_row {op : Nat} {multi : Bool} {i : Word → Instr} (hop : op < 256)
    (hrow : ∀ w, decodeFields (BitVec.ofNat 8 op) (rField w) (padField w) = some (i w))
    (hmulti : ∀ w, (i w).isMultiCycle = multi) : IssuedAs op multi i := by
  intro w s hw
  have hwrite : writeWord 0x014 w s = issue w s := writeWord_regOffset .cmd w s
  have hdec (hlow : w.toNat < 4096) : decodeWord w = .ok (i w) := by
    have hres : reservedField w = 0 := (reservedField_eq_zero_iff w).2 (Nat.div_eq_of_lt hlow)
    have hopField : opField w = BitVec.ofNat 8 op := (opField_eq_ofNat_iff w hop).2 hw
    exact decodeWord_eq_ok_iff_decodeFields.2 ⟨hres, hopField ▸ hrow w⟩
  refine ⟨fun hb => hwrite.trans (issue_of_busy hb w),
    fun hb hhigh => reservedWordCompletesWithBadCmd.2 w s hb (.inl hhigh), fun hb hlow hm => ?_, fun hb hlow hm => ?_⟩
  · rw [hwrite, issue_of_singleCycle hb (hdec hlow) ((hmulti w).trans hm), loadLatch_eq_latchOf]
  · rw [hwrite, issue_of_multiCycle hb (hdec hlow) ((hmulti w).trans hm), ← loadLatch_eq_latchOf]
    exact ⟨rfl, latchedInstr_loadLatch (hdec hlow) s⟩

/-- NOP is its completion (40 R130). -/
theorem exec_nop (s : State) : exec .nop s = .next (complete .ok s) := rfl

/-- CLEAR clears the capture with the state and the results beside it, and completes (40 R131). -/
theorem exec_clear (s : State) :
    exec .clear s = .next (complete .ok { clearCapture s with dstate := .idle, outlen := 0, result := 0 }) := rfl

/-- Settles O9: NOP is row 0x00, and its completion with OK is all it does. -/
theorem nopOnlyReports : Obligations.NopOnlyReports :=
  ⟨issuedAs_of_row (by decide) (fun _ => rfl) (fun _ => rfl),
    fun s => (exec_nop s).trans (congrArg _ (complete_ok s))⟩

/-- A cycle without reset is the beat, the completion and the host access, each if it falls in the cycle (20_memory R83). -/
theorem step_of_inputs {s : State} {c : Cycle} {rest : List Cycle} (h : s.inputs = c :: rest) (hrst : c.rst = false) :
    step s = runCycle c { s with inputs := rest, irqSetNow := 0 } := by
  simp [step, clockCycle, nextCycle, beginCycle, h, hrst]

/-- Settles O10: CLEAR is row 0x01; the beat of the cycle comes before the host's write; and the completion with OK reports on
the cleared state. -/
theorem clearRestoresInitialState : Obligations.ClearRestoresInitialState :=
  ⟨issuedAs_of_row (by decide) (fun _ => rfl) (fun _ => rfl),
    fun _ _ _ h => step_of_inputs h rfl,
    fun s => (exec_clear s).trans (congrArg _ (complete_ok _))⟩

end Sys2Proof.Machine
end

section
/-! PROOFS. The signal primitives: `sign` and `clamp` over the integers (41 R140, R141, R146), and the commands SIGN, CLAMP and
EDGE on the latched operands (41 R143, R144, R145). -/

namespace Sys2Proof.Machine

theorem sign_of_pos {x : Int} (h : 0 < x) : sign x = .pos := if_pos h

theorem sign_of_neg {x : Int} (h : x < 0) : sign x = .neg := by
  rw [sign, if_neg (Int.lt_asymm h), if_neg (Int.ne_of_lt h)]

/-- The word of a polarity, read as a signed number, is the sign. -/
theorem toInt_polarityWord_sign (x : Int) : (polarityWord (sign x)).toInt = x.sign := by
  obtain h | rfl | h := Int.lt_trichotomy x 0
  · rw [sign_of_neg h, Int.sign_eq_neg_one_of_neg h]; rfl
  · rfl
  · rw [sign_of_pos h, Int.sign_eq_one_of_pos h]; rfl

/-- The three polarities have three words (00_scope R14, 41 R143). -/
theorem polarityWord_inj {p q : Polarity} : polarityWord p = polarityWord q ↔ p = q := by
  cases p <;> cases q <;> decide

/-- Two numbers have one polarity just when they have one sign: each is read off the word of the polarity. -/
theorem sign_eq_sign_iff {x y : Int} : sign x = sign y ↔ x.sign = y.sign := by
  rw [← toInt_polarityWord_sign, ← toInt_polarityWord_sign, BitVec.toInt_inj, polarityWord_inj]

/-- The clamp to a nonempty interval is the bound from above, then from below. -/
theorem clamp_eq_max_min {lo hi : Int} (h : lo ≤ hi) (x : Int) : clamp x lo hi = max lo (min x hi) := by
  unfold clamp
  split
  · omega
  · split <;> omega

/-- A clamp of words is one of the three words, so it is again a word. -/
theorem toInt_ofInt_clamp (x lo hi : Word) :
    (BitVec.ofInt 32 (clamp x.toInt lo.toInt hi.toInt)).toInt = clamp x.toInt lo.toInt hi.toInt := by
  unfold clamp
  split
  · rw [BitVec.ofInt_toInt]
  · split <;> rw [BitVec.ofInt_toInt]

/-- The default bounds lie on the two sides of 0, so they move no number across it (41 R146). -/
theorem sign_clamp_default (x : Int) : sign (clamp x (-1) 1) = sign x := by
  rw [sign_eq_sign_iff, clamp_eq_max_min (by decide)]
  obtain h | rfl | h := Int.lt_trichotomy x 0
  · rw [Int.sign_eq_neg_one_of_neg h, Int.sign_eq_neg_one_of_neg (by omega)]
  · rfl
  · rw [Int.sign_eq_one_of_pos h, Int.sign_eq_one_of_pos (by omega)]

/-- SIGN reports the polarity word of OPA (41 R143). -/
theorem exec_sign (s : State) :
    exec .sign s = .next (complete .ok { s with result := polarityWord (sign s.latch.opa.toInt) }) := rfl

/-- CLAMP to a nonempty interval reports the clamp of OPA (41 R144). -/
theorem exec_clamp_of_le {s : State} (h : s.latch.opb.toInt ≤ s.latch.opc.toInt) :
    exec .clamp s = .next (complete .ok
      { s with result := BitVec.ofInt 32 (clamp s.latch.opa.toInt s.latch.opb.toInt s.latch.opc.toInt) }) :=
  if_neg (Int.not_lt.2 h)

/-- CLAMP to an empty interval is its error completion (41 R144). -/
theorem exec_clamp_of_lt {s : State} (h : s.latch.opc.toInt < s.latch.opb.toInt) :
    exec .clamp s = .next (complete .badArg s) := if_pos h

/-- EDGE reports whether the signs of OPA and OPB differ (41 R142, R145). -/
theorem exec_edge (s : State) :
    exec .edge s = .next (complete .ok
      { s with result := if s.latch.opa.toInt.sign ≠ s.latch.opb.toInt.sign then 0x00000001 else 0x00000000 }) := by
  simp only [exec, execEdge, edge, ne_eq, sign_eq_sign_iff, decide_eq_true_eq]

/-- Settles O12: SIGN is row 0x10, and the word it reports is the polarity's. -/
theorem signGivesThePolarity : Obligations.SignGivesThePolarity :=
  ⟨issuedAs_of_row (by decide) (fun _ => rfl) (fun _ => rfl), fun s =>
    ⟨polarityWord (sign s.latch.opa.toInt), toInt_polarityWord_sign _, (exec_sign s).trans (congrArg _ (complete_ok _))⟩⟩

/-- Settles O13: CLAMP is row 0x11; with a nonempty interval its word is the clamp, which is the signed bound; with an empty one
it only reports BADARG. -/
theorem clampBoundsTheOperand : Obligations.ClampBoundsTheOperand := by
  refine ⟨issuedAs_of_row (by decide) (fun _ => rfl) (fun _ => rfl), rfl, fun s hle => ?_, fun s hlt => ?_⟩
  · refine ⟨_, ?_, (exec_clamp_of_le hle).trans (congrArg _ (complete_ok _))⟩
    rw [toInt_ofInt_clamp, clamp_eq_max_min hle]
  · exact (exec_clamp_of_lt hlt).trans (congrArg _ (complete_error _ _ (by decide)))

/-- Settles O14: EDGE is row 0x12, and polarities differ just when signs do. -/
theorem edgeComparesPolarities : Obligations.EdgeComparesPolarities :=
  ⟨issuedAs_of_row (by decide) (fun _ => rfl) (fun _ => rfl),
    fun s => (exec_edge s).trans (congrArg _ (complete_ok _))⟩

/-- Settles O15: the default clamp keeps the sign of every number, and on the machine the clamped word, read back as OPA, is the
clamped number. -/
theorem signOfDefaultClampIsSign : Obligations.SignOfDefaultClampIsSign := by
  refine ⟨sign_clamp_default, fun s t u v hopb hopc ht hu hv => ?_⟩
  have hlo : s.latch.opb.toInt = -1 := by rw [hopb]; rfl
  have hhi : s.latch.opc.toInt = 1 := by rw [hopc]; rfl
  rw [exec_clamp_of_le (by omega)] at ht
  rw [exec_sign] at hu hv
  cases ht; cases hu; cases hv
  have hclamped : sign (BitVec.ofInt 32 (clamp s.latch.opa.toInt s.latch.opb.toInt s.latch.opc.toInt)).toInt =
      sign s.latch.opa.toInt := by
    rw [toInt_ofInt_clamp, hlo, hhi, sign_clamp_default]
  exact congrArg polarityWord hclamped

end Sys2Proof.Machine
end

section
/-! PROOFS. The decoder beat by beat (42 R153 to R164): DECODE, which beats are accepted and what none of them touches, the three
ways of a beat through RUN, the beat in DRAIN, the moves of `DSTATE`, and the thresholds of R152. -/

namespace Sys2Proof.Machine

/-! ## DECODE (R153) -/

theorem exec_decode_of_idle {s : State} (hd : s.dstate = .idle) :
    exec .decode s = .next (complete .ok { clearCapture s with dstate := .run }) :=
  (execDecode_eq s).trans (if_pos hd)

theorem exec_decode_of_ne_idle {s : State} (hd : s.dstate ≠ .idle) : exec .decode s = .next (complete .conflict s) :=
  (execDecode_eq s).trans (if_neg hd)

/-- Settles O11: DECODE is row 0x02; in IDLE it completes on the cleared capture, else it only reports CONFLICT; and only a write
in IDLE changes a threshold. -/
theorem decodeStartsACapture : Obligations.DecodeStartsACapture :=
  ⟨issuedAs_of_row (by decide) (fun _ => rfl) (fun _ => rfl), rfl,
    fun _ hd => (exec_decode_of_idle hd).trans (congrArg _ (complete_ok _)),
    fun _ hd => (exec_decode_of_ne_idle hd).trans (congrArg _ (complete_error _ _ (by decide))),
    thresholdsAreWrittenOnlyInIdle.2.2⟩

/-! ## Acceptance (R155) -/

theorem sReady_of_idle {s : State} (hd : s.dstate = .idle) : sReady s = false := by
  rw [sReady, hd]

theorem sReady_of_ne_idle {s : State} (hd : s.dstate ≠ .idle) : sReady s = true := by
  unfold sReady
  split
  · exact absurd ‹_› hd
  all_goals rfl

theorem takeBeat_of_no_source {s : State} (hs : s.source = []) : takeBeat s = s := by
  simp only [takeBeat, hs]

theorem takeBeat_of_idle {s : State} (hd : s.dstate = .idle) : takeBeat s = s := by
  unfold takeBeat
  split
  · rfl
  · rw [sReady_of_idle hd]
    rfl

theorem takeBeat_of_ne_idle {s : State} {b : Beat} {rest : List Beat} (hd : s.dstate ≠ .idle) (hs : s.source = b :: rest) :
    takeBeat s = acceptBeat b { s with source := rest } := by
  simp only [takeBeat, hs, sReady_of_ne_idle hd, if_true]

/-- Every accepted beat counts one sample (10_state R39). -/
theorem acceptBeat_sidx {b : Beat} {s : State} (hd : s.dstate ≠ .idle) : (acceptBeat b s).sidx = s.sidx + 1 := by
  apply acceptBeat_keeps (fun t => t.sidx = s.sidx + 1)
  case hidle => exact fun hi => absurd hi hd
  all_goals
    intros
    simp

/-- What of the state no beat touches: the command engine with its results and OUTBUF, the operand registers, the controls, the
thresholds, the build and the host's records. Everything else is as at reset. -/
def controlsOf (s : State) : State :=
  { State.reset with
    busy := s.busy, err := s.err, found := s.found, frameOffset := s.frameOffset, outlen := s.outlen, result := s.result
    outbuf := s.outbuf, latch := s.latch, src := s.src, len := s.len, dst := s.dst, opa := s.opa, opb := s.opb, opc := s.opc
    edgeThr := s.edgeThr, gapThr := s.gapThr, alignEn := s.alignEn, irqEnable := s.irqEnable, params := s.params
    draws := s.draws, reads := s.reads }

theorem takeBeat_controls (s : State) : controlsOf (takeBeat s) = controlsOf s := by
  obtain heq | ⟨b, rest, heq⟩ := takeBeat_eq s <;> rw [heq]
  apply acceptBeat_keeps (fun t => controlsOf t = controlsOf s) <;> intros <;> simp [controlsOf]

/-- Settles O26: `s_ready` gates the beat, the end of every beat counts it, and no beat touches `controlsOf`. -/
theorem beatsAreAcceptedOutsideIdle : Obligations.BeatsAreAcceptedOutsideIdle := by
  refine ⟨fun s hd => ⟨sReady_of_idle hd, takeBeat_of_idle hd⟩, fun s b rest hd hs => ?_, fun s => ?_⟩
  · have htake := takeBeat_of_ne_idle hd hs
    refine ⟨sReady_of_ne_idle hd, htake, ?_, ?_⟩ <;> rw [htake]
    · exact acceptBeat_source b _
    · exact (congrArg BitVec.toNat (acceptBeat_sidx (s := { s with source := rest }) hd)).trans (BitVec.toNat_add _ _)
  · have hfield {α : Type} (f : State → α) := congrArg f (takeBeat_controls s)
    exact ⟨hfield (·.busy), hfield (·.err), hfield (·.found), hfield (·.frameOffset), hfield (·.outlen), hfield (·.result),
      hfield (·.outbuf), hfield (·.latch), hfield (·.src), hfield (·.len), hfield (·.dst), hfield (·.opa), hfield (·.opb),
      hfield (·.opc), hfield (·.edgeThr), hfield (·.gapThr), hfield (·.alignEn), hfield (·.irqEnable),
      hfield (·.params), hfield (·.draws), hfield (·.reads)⟩

/-! ## The three ways through RUN, and DRAIN (R156 to R164) -/

section Beat
variable {b : Beat} {s : State}

theorem acceptBeat_of_drain (hd : s.dstate = .drain) : acceptBeat b s = finishBeat none b s := by
  simp only [acceptBeat, hd, drainStep]

theorem acceptBeat_of_run (hd : s.dstate = .run) : acceptBeat b s = runStep b s := by
  simp only [acceptBeat, hd]

/-- A beat in RUN that terminates (42 R158). -/
theorem acceptBeat_terminates (hd : s.dstate = .run)
    (ht : s.gapThr.toNat < min (s.gapcnt.toNat + 1) 0xFFFFFFFF ∧ 6 ≤ s.bitcnt.toNat) :
    acceptBeat b s = finishBeat none b (terminate (advanceCounts s)) :=
  (acceptBeat_of_run hd).trans (runStep_terminates b s ((terminates_advance s).2 ht))

variable (hd : s.dstate = .run) (ht : ¬ (s.gapThr.toNat < min (s.gapcnt.toNat + 1) 0xFFFFFFFF ∧ 6 ≤ s.bitcnt.toNat))
include hd ht

/-- A beat in RUN that commits (42 R159, R160). -/
theorem acceptBeat_commits
    (hq : s.edgeThr.toNat ≤ min (s.tcnt.toNat + 1) 0xFFFFFFFF ∧ s.lastpol ≠ beatPolarity s.params b) :
    acceptBeat b s = finishBeat (some (bitOf (beatPolarity s.params b), s.bitcnt)) b
      { commit (beatPolarity s.params b) b (advanceCounts s) with lastpol := beatPolarity s.params b } :=
  (acceptBeat_of_run hd).trans (runStep_commits b s (Bool.eq_false_iff.2 (mt (terminates_advance s).1 ht))
    ((qualifies_advance _ s).2 hq))

/-- A beat in RUN that passes (42 R161). -/
theorem acceptBeat_passes
    (hq : ¬ (s.edgeThr.toNat ≤ min (s.tcnt.toNat + 1) 0xFFFFFFFF ∧ s.lastpol ≠ beatPolarity s.params b)) :
    acceptBeat b s = finishBeat none b { advanceCounts s with lastpol := beatPolarity s.params b } :=
  (acceptBeat_of_run hd).trans (runStep_passes b s (Bool.eq_false_iff.2 (mt (terminates_advance s).1 ht))
    (Bool.eq_false_iff.2 (mt (qualifies_advance _ s).1 hq)))

end Beat

/-- The interrupt bits of the end of a capture, which its last beat alone sets (42 R163). -/
theorem irqDecDone_if (last : Bool) (x : BitVec 5) :
    (if last then x ||| irqDecDone else x) = x ||| (if last then 0b00001#5 else 0) := by
  cases last
  · exact BitVec.or_zero.symm
  · rfl

/-- Settles O27: the beat terminates, and its end adds what the last beat does. -/
theorem runBeatTerminates : Obligations.RunBeatTerminates := by
  intro s b hd hgap hbits
  have hirq : (if b.last then s.irqStatus ||| irqDecTerm ||| irqDecDone else s.irqStatus ||| irqDecTerm) =
      s.irqStatus ||| (if b.last then 0b00011#5 else 0b00010#5) := by
    cases b.last
    · rfl
    · exact BitVec.or_assoc _ _ _
  rw [acceptBeat_terminates hd ⟨hgap, hbits⟩]
  simp [satSucc32_toNat, hirq]

/-! ## The lanes of a beat (R107, 20_memory R74) -/

theorem sign_eq_neg_iff {x : Int} : sign x = .neg ↔ x < 0 := by
  obtain h | rfl | h := Int.lt_trichotomy x 0
  · simp [sign_of_neg h, h]
  · decide
  · simp [sign_of_pos h, Int.le_of_lt h]

theorem sign_eq_zero_iff {x : Int} : sign x = .zero ↔ x = 0 := by
  obtain h | rfl | h := Int.lt_trichotomy x 0
  · simp [sign_of_neg h, Int.ne_of_lt h]
  · decide
  · simp [sign_of_pos h, Int.ne_of_gt h]

theorem sign_eq_pos_iff {x : Int} : sign x = .pos ↔ 0 < x := by
  obtain h | rfl | h := Int.lt_trichotomy x 0
  · simp [sign_of_neg h, Int.le_of_lt h]
  · decide
  · simp [sign_of_pos h, h]

/-- The sign-extension changes no number: the polarity is the sign of the wired lanes (30_encoding R107). -/
theorem beatPolarity_eq {p : Params} (hp : p.vw ≤ 32) (b : Beat) :
    beatPolarity p b = sign (b.voltage.setWidth p.vw).toInt := by
  rw [beatPolarity, BitVec.toInt_signExtend_of_le hp]

theorem readsTheVoltage {p : Params} (hp : p.Legal) (b : Beat) : ReadsTheVoltage p b := by
  obtain ⟨⟨hlo, hhi⟩, -⟩ := hp
  have hneg : (b.voltage.setWidth p.vw).toInt < 0 ↔ b.voltage.getLsbD (p.vw - 1) = true := by
    have hmsb : (b.voltage.setWidth p.vw).msb = b.voltage.getLsbD (p.vw - 1) := by
      simp [BitVec.msb_eq_getLsbD_last, show p.vw - 1 < p.vw by omega]
    rw [← hmsb, BitVec.msb_eq_toInt, decide_eq_true_iff]
  have hzero : (b.voltage.setWidth p.vw).toInt = 0 ↔ b.voltage.toNat % 2 ^ p.vw = 0 := by
    rw [← BitVec.toNat_setWidth, ← BitVec.toInt_zero (w := p.vw), BitVec.toInt_inj, ← BitVec.toNat_inj]
    simp
  have hpos : 0 < (b.voltage.setWidth p.vw).toInt ↔
      b.voltage.getLsbD (p.vw - 1) = false ∧ b.voltage.toNat % 2 ^ p.vw ≠ 0 := by
    rw [← Bool.not_eq_true, ← hneg, ne_eq, ← hzero]
    omega
  rw [ReadsTheVoltage, beatPolarity_eq hhi, sign_eq_neg_iff, sign_eq_zero_iff, sign_eq_pos_iff]
  exact ⟨hneg, hzero, hpos⟩

theorem copiesTheLanes {p : Params} (hp : p.Legal) (b : Beat) : CopiesTheLanes p b := by
  obtain ⟨⟨-, hvw⟩, htagw, -⟩ := hp
  rw [CopiesTheLanes, wiredTag, wiredVoltage, BitVec.toNat_setWidth_of_le htagw, BitVec.toNat_setWidth_of_le hvw,
    BitVec.toNat_setWidth, BitVec.toNat_setWidth]
  exact ⟨rfl, rfl⟩

/-- Settles O28: the beat commits, with the bit's cell, or `OVF` where BITBUF is full, written by `commit`. -/
theorem runBeatCommits : Obligations.RunBeatCommits := by
  refine ⟨fun p b hp => ⟨readsTheVoltage hp b, copiesTheLanes hp b⟩, fun s b hd ht hedge hpol => ?_⟩
  rw [acceptBeat_commits hd ht ⟨hedge, hpol⟩]
  refine ⟨by simp, by simp, by simp, by simp [satSucc32_toNat], by simp [commitBeat, bitOf],
    fun hroom => ⟨?_, fun j hj => ?_, ?_⟩, fun hfull => ⟨?_, ?_, ?_⟩, by simp [hd], by simp, by simp, ?_⟩
  · simp [bitRead, hroom, bitOf]
  · simp [bitRead, hroom, cellsGet_set_other _ _ _ _ hj]
  · simp [hroom]
  · simp [Nat.not_lt.2 hfull]
  · simp [Nat.not_lt.2 hfull]
  · have hcnt := s.bitcnt.isLt
    have hlen : min (min (s.bitcnt.toNat + 1) 0xFFFFFFFF) s.params.bitbufDepth = s.params.bitbufDepth := by omega
    simpa [bitLen, satSucc32_toNat] using hlen
  · simpa using irqDecDone_if b.last s.irqStatus

/-- Settles O29: the beat passes, and its end adds what the last beat does. -/
theorem runBeatPasses : Obligations.RunBeatPasses := by
  refine ⟨fun p b hp => readsTheVoltage hp b, fun s b hd ht hq => ?_⟩
  have hq : ¬ (s.edgeThr.toNat ≤ min (s.tcnt.toNat + 1) 0xFFFFFFFF ∧ s.lastpol ≠ beatPolarity s.params b) :=
    fun h => hq.elim (Nat.not_lt_of_le h.1) h.2
  rw [acceptBeat_passes hd ht hq]
  simp [satSucc32_toNat, hd, irqDecDone_if]

/-- Settles O30: the beat is its end alone. -/
theorem drainBeatDecodesNothing : Obligations.DrainBeatDecodesNothing := by
  intro s b hd
  rw [acceptBeat_of_drain hd, finishBeat_eq]
  simp [hd, irqDecDone_if]

/-! ## The moves of `DSTATE` (R154) -/

theorem acceptBeat_dstate_of_run {b : Beat} {s : State} (hd : s.dstate = .run) :
    (acceptBeat b s).dstate =
      if b.last then .idle
      else if s.gapThr.toNat < min (s.gapcnt.toNat + 1) 0xFFFFFFFF ∧ 6 ≤ s.bitcnt.toNat then .drain
      else .run := by
  split
  · rename_i hl
    exact (acceptBeat_last hl (by simp [hd])).1
  · rename_i hl
    split
    · rename_i ht
      simp [acceptBeat_terminates hd ht, hl]
    · rename_i ht
      by_cases hq : s.edgeThr.toNat ≤ min (s.tcnt.toNat + 1) 0xFFFFFFFF ∧ s.lastpol ≠ beatPolarity s.params b
      · simp [acceptBeat_commits hd ht hq, hl, hd]
      · simp [acceptBeat_passes hd ht hq, hl, hd]

theorem acceptBeat_dstate_of_drain {b : Beat} {s : State} (hd : s.dstate = .drain) :
    (acceptBeat b s).dstate = if b.last then .idle else .drain := by
  rw [acceptBeat_of_drain hd, finishBeat_dstate, hd]

/-- Of the commands only CLEAR and DECODE in IDLE move the decoder (42 R154). -/
theorem exec_dstate {i : Instr} {s t : State} (h : exec i s = .next t) :
    t.dstate = s.dstate ∨ (i = .decode ∧ s.dstate = .idle ∧ t.dstate = .run) ∨ (i = .clear ∧ t.dstate = .idle) := by
  cases exec_cases h with
  | cleared hi => exact .inr (.inr ⟨hi, rfl⟩)
  | started hi hd => exact .inr (.inl ⟨hi, hd, rfl⟩)
  | stored bytes => exact .inl (by simp)
  | _ => exact .inl rfl

/-- A completion runs a multi-cycle command, and none of these moves the decoder. -/
theorem completionEvent_dstate {s t : State} (hs : EngineHolds s) (h : completionEvent s = .next t) :
    t.dstate = s.dstate := by
  obtain ⟨-, rfl⟩ | ⟨hb, i, u, hi, hexec, rfl⟩ := completionEvent_cases h
  · rfl
  · obtain ⟨j, hj, hmulti⟩ := hs hb
    obtain rfl : i = j := Option.some.inj (hi.symm.trans hj)
    obtain hkeep | ⟨rfl, -⟩ | ⟨rfl, -⟩ := exec_dstate hexec
    · exact hkeep
    · cases hmulti
    · cases hmulti

/-- An issue that moves the decoder is that of CLEAR, or of DECODE in IDLE, to an idle engine (42 R154). -/
theorem issue_dstate {w : Word} {s t : State} (h : issue w s = .next t) :
    t.dstate = s.dstate ∨ (s.busy = false ∧
      ((decodeWord w = .ok .decode ∧ s.dstate = .idle ∧ t.dstate = .run) ∨
       (decodeWord w = .ok .clear ∧ t.dstate = .idle))) := by
  obtain ⟨-, rfl⟩ | ⟨-, -, rfl⟩ | ⟨-, i, -, -, rfl⟩ | ⟨hb, i, hi, -, hexec⟩ := issue_cases h
  · exact .inl rfl
  · exact .inl rfl
  · exact .inl rfl
  · obtain hkeep | ⟨rfl, hd, hrun⟩ | ⟨rfl, hidle⟩ := exec_dstate hexec
    · exact .inl hkeep
    · exact .inr ⟨hb, .inl ⟨hi, hd, hrun⟩⟩
    · exact .inr ⟨hb, .inr ⟨hi, hidle⟩⟩

theorem issue_decode_dstate {w : Word} {s t : State} (hb : s.busy = false) (hw : decodeWord w = .ok .decode)
    (hd : s.dstate = .idle) (h : issue w s = .next t) : t.dstate = .run := by
  rw [issue_of_singleCycle hb hw rfl, exec_decode_of_idle (by exact hd)] at h
  cases h
  rfl

theorem issue_clear_dstate {w : Word} {s t : State} (hb : s.busy = false) (hw : decodeWord w = .ok .clear)
    (h : issue w s = .next t) : t.dstate = .idle := by
  rw [issue_of_singleCycle hb hw rfl, exec_clear] at h
  cases h
  rfl

/-- The words of the map's registers: each stands at its own offset only (10_state R22). -/
theorem regAt_eq_some {k : Nat} {r : Reg} (h : regAt k = some r) : (regOffset r).toNat / 4 = k := by
  have hmap : ∀ k, k < 28 → (regAt k).map (fun r => (regOffset r).toNat / 4) = some k := by decide
  have hk : k < 28 := Nat.lt_of_not_le fun hle => by simp [regAt_eq_none.2 hle] at h
  simpa [h] using hmap k hk

theorem placeOf_eq_register {offset : BitVec 16} {r : Reg} (h : placeOf offset = .register r) :
    (regOffset r).toNat / 4 = offset.toNat / 4 := by
  simp only [placeOf] at h
  split at h
  · split at h
    · rename_i hr
      cases h
      exact regAt_eq_some hr
    · cases h
  · split at h <;> cases h

/-- A write to word 5 is an issue (10_state R28). -/
theorem writeWord_cmd {offset : BitVec 16} (h : offset.toNat / 4 = 5) (w : Word) (s : State) :
    writeWord offset w s = issue w s := by
  have hplace : placeOf offset = placeOf (regOffset .cmd) := placeOf_congr h
  rw [writeWord, hplace, placeOf_regOffset]
  rfl

theorem writeReg_dstate {r : Reg} (hr : r ≠ .cmd) {w : Word} {s t : State} (h : writeReg r w s = .next t) :
    t.dstate = s.dstate := by
  cases r with
  | cmd => exact absurd rfl hr
  | edgeThr | gapThr =>
    cases h
    unfold thresholdWrite
    split <;> rfl
  | _ =>
    cases h
    rfl

/-- No other write moves the decoder. -/
theorem writeWord_dstate {offset : BitVec 16} (hoff : offset.toNat / 4 ≠ 5) {w : Word} {s t : State}
    (h : writeWord offset w s = .next t) : t.dstate = s.dstate := by
  unfold writeWord at h
  split at h
  · rename_i r hr
    exact writeReg_dstate (fun hcmd => hoff (hcmd ▸ placeOf_eq_register hr).symm) h
  all_goals
    cases h
    rfl

/-- Settles O32: the beat by the state it finds, the completion by its multi-cycle command, the host access by the one word
that issues commands. -/
theorem decoderStateMovesOnlyByTheTable : Obligations.DecoderStateMovesOnlyByTheTable := by
  refine ⟨fun s hs => by rw [takeBeat_of_no_source hs], fun s b rest hs => ?_, fun s t => completionEvent_dstate,
    fun s t op h => ⟨fun hmove => ?_, ?_⟩, fun s op => ?_⟩
  · cases hd : s.dstate with
    | idle => rw [takeBeat_of_idle hd, hd]
    | run =>
      rw [takeBeat_of_ne_idle (by simp [hd]) hs]
      exact acceptBeat_dstate_of_run hd
    | drain =>
      rw [takeBeat_of_ne_idle (by simp [hd]) hs]
      exact acceptBeat_dstate_of_drain hd
  · unfold hostAccess at h
    split at h
    · cases h
      exact absurd rfl hmove
    · cases h
      exact absurd rfl hmove
    · rename_i offset w
      by_cases hoff : offset.toNat / 4 = 5
      · rw [writeWord_cmd hoff] at h
        obtain hkeep | ⟨hb, hcmd⟩ := issue_dstate h
        · exact absurd hkeep hmove
        · exact ⟨offset, w, rfl, hoff, hb, hcmd⟩
      · exact absurd (writeWord_dstate hoff h) hmove
  · rintro offset w rfl hoff hb
    have hissue : issue w s = .next t := (writeWord_cmd hoff w s).symm.trans h
    exact ⟨fun hw hd => issue_decode_dstate hb hw hd hissue, fun hw => issue_clear_dstate hb hw hissue⟩
  · unfold resetCycle
    split <;> rfl

/-! ## The thresholds of R152 -/

/-- Settles O46: a rounded-up quotient is reached, and a rounded-down one passed, just where the quotient is. -/
theorem thresholdFormulaIsExact : Obligations.ThresholdFormulaIsExact := by
  refine ⟨fun num den c hden => ⟨?_, ?_⟩, rfl, rfl⟩
  · rw [edgeThrFor, Nat.div_le_iff_le_mul_add_pred (by omega)]
    omega
  · rw [gapThrFor, Nat.div_lt_iff_lt_mul (by omega), Nat.mul_comm c]

end Sys2Proof.Machine
end

section
/-! PROOFS. A clean waveform is recovered from its second bit on (42 R169). In the source's decode (42 R150) a half-period of one
level commits nothing, or its first sample alone, so the waveform is followed half-period by half-period. -/

namespace Sys2Proof.Machine

section Decode
variable {edgeThr gapThr t gap n i : Nat} {last p : Polarity} {rest : List Polarity}

/-- A sample passes, if it does not terminate and comes too early or brings no edge (42 R150, steps 3, 4 and 6). -/
theorem sourceDecodeFrom_pass (hgo : gap + 1 ≤ gapThr ∨ n < Config.minBits) (hno : t + 1 < edgeThr ∨ last = p) :
    sourceDecodeFrom edgeThr gapThr t gap n last i (p :: rest) =
      sourceDecodeFrom edgeThr gapThr (t + 1) (gap + 1) n p (i + 1) rest := by
  rw [sourceDecodeFrom, if_neg (by omega), if_neg fun h => hno.elim (Nat.not_lt_of_le h.1) h.2]

/-- A sample commits, if it does not terminate, comes late enough and brings an edge (42 R150, step 5). -/
theorem sourceDecodeFrom_commit (hgo : gap + 1 ≤ gapThr ∨ n < Config.minBits) (hedge : edgeThr ≤ t + 1)
    (hne : last ≠ p) :
    sourceDecodeFrom edgeThr gapThr t gap n last i (p :: rest) =
      (bitOf p, i) :: sourceDecodeFrom edgeThr gapThr 0 0 (n + 1) p (i + 1) rest := by
  rw [sourceDecodeFrom, if_neg (by omega), if_pos ⟨hedge, hne⟩]

/-- A level that stays brings no edge. -/
theorem sourceDecodeFrom_hold (m : Nat) (hgo : gap + m ≤ gapThr ∨ n < Config.minBits) :
    sourceDecodeFrom edgeThr gapThr t gap n p i (List.replicate m p ++ rest) =
      sourceDecodeFrom edgeThr gapThr (t + m) (gap + m) n p (i + m) rest := by
  induction m generalizing t gap i with
  | zero => rfl
  | succ m ih =>
    rw [List.replicate_succ, List.cons_append, sourceDecodeFrom_pass (by omega) (.inr rfl), ih (by omega)]
    simp only [Nat.add_assoc, Nat.add_comm 1]

/-- A half-period that opens too early to commit, or without an edge, passes. -/
theorem sourceDecodeFrom_half_pass (k : Nat) (hgo : gap + (k + 1) ≤ gapThr ∨ n < Config.minBits)
    (hno : t + 1 < edgeThr ∨ last = p) :
    sourceDecodeFrom edgeThr gapThr t gap n last i (List.replicate (k + 1) p ++ rest) =
      sourceDecodeFrom edgeThr gapThr (t + (k + 1)) (gap + (k + 1)) n p (i + (k + 1)) rest := by
  rw [List.replicate_succ, List.cons_append, sourceDecodeFrom_pass (by omega) hno, sourceDecodeFrom_hold k (by omega)]
  simp only [Nat.add_assoc, Nat.add_comm 1]

/-- A half-period that opens with a qualifying edge commits one bit, at its first sample. -/
theorem sourceDecodeFrom_half_commit (k : Nat) (hgo : gap + 1 ≤ gapThr ∨ n < Config.minBits) (hk : k ≤ gapThr)
    (hedge : edgeThr ≤ t + 1) (hne : last ≠ p) :
    sourceDecodeFrom edgeThr gapThr t gap n last i (List.replicate (k + 1) p ++ rest) =
      (bitOf p, i) :: sourceDecodeFrom edgeThr gapThr k k (n + 1) p (i + (k + 1)) rest := by
  rw [List.replicate_succ, List.cons_append, sourceDecodeFrom_commit hgo hedge hne, sourceDecodeFrom_hold k (by omega)]
  simp only [Nat.zero_add, Nat.add_assoc, Nat.add_comm 1]

end Decode

@[simp] theorem bitOf_level (b : Bool) : bitOf (level b) = b := by
  cases b <;> rfl

/-- The guaranteed transition of a bit (42 R169). -/
theorem level_not_ne (b : Bool) : level (!b) ≠ level b := by
  cases b <;> decide

/-- The first bit of a clean waveform, half by half. -/
theorem cleanWave_cons (b : Bool) (bits : List Bool) (n : Nat) :
    cleanWave (b :: bits) n =
      List.replicate (n / 2) (level (!b)) ++ (List.replicate (n / 2) (level b) ++ cleanWave bits n) := by
  simp [cleanWave]

/-- The bits of a clean waveform from bit `j` on, each at its guaranteed transition (42 R169). -/
def bitsAtMiddles (bits : List Bool) (j n : Nat) : List (Bool × Nat) :=
  (bits.zipIdx j).map fun c => (c.1, c.2 * n + n / 2)

section Wave
variable {edgeThr gapThr k : Nat}

/-- Once the decoder commits at guaranteed transitions it goes on to do so: half a period after a commit is too early, a whole
one is not (42 R169). The half-periods are of `k + 1` samples, and `k` of them lie behind the last commit. -/
theorem sourceDecodeFrom_locked (hlo : k + 2 ≤ edgeThr) (hhi : edgeThr ≤ 2 * (k + 1)) (hgap : 2 * (k + 1) ≤ gapThr)
    (bits : List Bool) (j m : Nat) (last : Polarity) :
    sourceDecodeFrom edgeThr gapThr k k m last (j * (2 * (k + 1))) (cleanWave bits (2 * (k + 1))) =
      bitsAtMiddles bits j (2 * (k + 1)) := by
  have hhalf : 2 * (k + 1) / 2 = k + 1 := by omega
  induction bits generalizing j m last with
  | nil => rfl
  | cons b bits ih =>
    have hnext : j * (2 * (k + 1)) + (k + 1) + (k + 1) = (j + 1) * (2 * (k + 1)) := by
      rw [Nat.succ_mul j]
      omega
    rw [cleanWave_cons, hhalf, sourceDecodeFrom_half_pass k (by omega) (.inl (by omega)),
      sourceDecodeFrom_half_commit k (by omega) (by omega) (by omega) (level_not_ne b), hnext, ih, bitOf_level]
    simp [bitsAtMiddles, hhalf]

/-- From the start of a clean waveform whose first two bits differ: the first bit's transition is too early, there is none before
the second bit, so the first commit is at the second bit's guaranteed transition (42 R169). -/
theorem sourceDecode_cleanWave (hlo : k + 3 ≤ edgeThr) (hhi : edgeThr ≤ 2 * (k + 1)) (hgap : 2 * (k + 1) ≤ gapThr)
    {b0 b1 : Bool} (hne : b0 ≠ b1) (more : List Bool) :
    sourceDecode edgeThr gapThr (cleanWave (b0 :: b1 :: more) (2 * (k + 1))) =
      bitsAtMiddles (b1 :: more) 1 (2 * (k + 1)) := by
  have hhalf : 2 * (k + 1) / 2 = k + 1 := by omega
  have hlevel : level b0 = level (!b1) := by rw [Bool.eq_not.2 hne]
  have hfew : 0 < Config.minBits := by decide
  have hnext : 0 + (k + 1) + (k + 1) + (k + 1) + (k + 1) = 2 * (2 * (k + 1)) := by omega
  rw [sourceDecode, cleanWave_cons, cleanWave_cons, hhalf,
    sourceDecodeFrom_half_pass k (.inr hfew) (.inl (by omega)),
    sourceDecodeFrom_half_pass k (.inr hfew) (.inl (by omega)),
    sourceDecodeFrom_half_pass k (.inr hfew) (.inr hlevel),
    sourceDecodeFrom_half_commit k (.inr hfew) (by omega) (by omega) (level_not_ne b1), hnext,
    sourceDecodeFrom_locked (by omega) hhi hgap, bitOf_level]
  simp only [bitsAtMiddles, List.zipIdx_cons, List.map_cons, hhalf]
  congr 2
  omega

end Wave

/-- Settles O58: the capture is the source's decode, which commits a clean waveform's bits from the second on. -/
theorem cleanWaveformIsRecovered : Obligations.CleanWaveformIsRecovered := by
  intro s bs bits b0 b1 more n hfresh hcap hdel hbits hne hn heven hlen hedge hgap hwave
  obtain ⟨t, hrun, hB, -⟩ := captureIsTheSourcesDecode s bs hfresh hcap hlen hdel
  obtain ⟨k, rfl⟩ : ∃ k, n = 2 * (k + 1) := ⟨n / 2 - 1, by omega⟩
  refine ⟨t, hrun, ?_⟩
  rw [hB, hwave, hbits, hedge, hgap, sourceDecode_cleanWave (by rw [edgeThrFor]; omega) (by rw [edgeThrFor]; omega)
    (by rw [gapThrFor]; omega) hne]
  rfl

end Sys2Proof.Machine
end

section
/-! PROOFS. Commits are spaced (42 R166): in a capture by the source's own counts, under every schedule by `TCNT`. -/

namespace Sys2Proof.Machine

/-- The first commit comes no sooner than the debounce time allows from `t` samples before `i`, and every other one no sooner
than it allows from the commit before it (42 R150, step 4). -/
theorem sourceDecodeFrom_spaced (edgeThr gapThr t gap n : Nat) (last : Polarity) (i : Nat) (ps : List Polarity) :
    (∀ c ∈ sourceDecodeFrom edgeThr gapThr t gap n last i ps,
      edgeThr + i ≤ c.2 + 1 + t ∧ i ≤ c.2 ∧ c.2 < i + ps.length) ∧
    (sourceDecodeFrom edgeThr gapThr t gap n last i ps).Pairwise (fun c d => c.2 + max edgeThr 1 ≤ d.2) := by
  induction ps generalizing t gap n last i with
  | nil => simp [sourceDecodeFrom]
  | cons p ps ih =>
    rw [sourceDecodeFrom, List.length_cons]
    split
    · simp
    · split
      · rename_i hq
        obtain ⟨hmem, hpair⟩ := ih 0 0 (n + 1) p (i + 1)
        refine ⟨List.forall_mem_cons.2 ⟨by omega, fun c hc => ?_⟩, List.pairwise_cons.2 ⟨fun c hc => ?_, hpair⟩⟩ <;>
          have := hmem c hc <;> omega
      · obtain ⟨hmem, hpair⟩ := ih (t + 1) (gap + 1) n p (i + 1)
        refine ⟨fun c hc => ?_, hpair⟩
        have := hmem c hc
        omega

/-- The sample indices on stream B are those of the committed bits (42 R165). -/
theorem expectedB_sidx (p : Params) (bs : List Beat) {cs : List (Bool × Nat)} (h : ∀ c ∈ cs, c.2 < 2 ^ 32) :
    (expectedB p bs cs).map (fun x => x.sidx.toNat) = cs.map (fun c => c.2) := by
  rw [expectedB, List.map_map]
  conv => rhs; rw [← List.zipIdx_map_fst 0 cs, List.map_map]
  refine List.map_congr_left fun c hc => ?_
  have hlt := h c.1 (by rw [← List.zipIdx_map_fst 0 cs]; exact List.mem_map_of_mem hc)
  simpa using Nat.mod_eq_of_lt hlt

/-- Commits of a capture are spaced (42 R166): the stream-B beats of a capture stand where the source's decode commits. -/
theorem capture_commits_spaced {s : State} {bs : List Beat} (hfresh : FreshRun s) (hcap : IsCapture bs)
    (hlen : bs.length < 2 ^ 32) (hdel : Delivers bs s) :
    ∃ (t : State) (new : List BBeat), Host.Core.run core bs.length s = .next t ∧ t.streamB = new.reverse ++ s.streamB ∧
      new.Pairwise (fun x y => x.sidx.toNat + max s.edgeThr.toNat 1 ≤ y.sidx.toNat) ∧
      ∀ x ∈ new, s.edgeThr.toNat ≤ x.sidx.toNat + 1 ∧ x.sidx.toNat < bs.length := by
  obtain ⟨t, hrun, hB, -⟩ := captureIsTheSourcesDecode s bs hfresh hcap hlen hdel
  obtain ⟨hmem, hpair⟩ := sourceDecodeFrom_spaced s.edgeThr.toNat s.gapThr.toNat 0 0 0 .neg 0 (polarities s.params bs)
  rw [← sourceDecode, polarities, List.length_map, ← polarities] at hmem
  have hsidx := expectedB_sidx s.params bs fun c hc => show c.2 < 2 ^ 32 by
    have := hmem c hc
    omega
  refine ⟨t, _, hrun, hB, ?_, ?_⟩
  · rw [← List.pairwise_map (f := fun x : BBeat => x.sidx.toNat) (R := fun a b => a + max s.edgeThr.toNat 1 ≤ b), hsidx]
    exact List.pairwise_map.2 hpair
  · rw [← List.forall_mem_map (f := fun x : BBeat => x.sidx.toNat)
      (P := fun i => s.edgeThr.toNat ≤ i + 1 ∧ i < bs.length), hsidx]
    refine List.forall_mem_map.2 fun c hc => ?_
    have := hmem c hc
    omega

theorem sampleDistance_capture : CaptureProperty SampleDistance where
  view _ := .rfl
  restarted _ _ _ _ _ := by simp [SampleDistance, restart]

/-- Outside RUN the distance says nothing. -/
theorem SampleDistance.of_not_run {s : State} (h : s.dstate ≠ .run) : SampleDistance s := fun hd => absurd hd h

/-- The end of a beat does not bring the decoder back to RUN (42 R154). -/
theorem finishBeat_not_run {c : Option (Bool × Word)} {b : Beat} {s : State} (h : s.dstate ≠ .run) :
    (finishBeat c b s).dstate ≠ .run := by
  rw [finishBeat_dstate]
  split
  · decide
  · exact h

theorem satSucc32_of_ne {v : Word} (h : v ≠ 0xFFFFFFFF) : satSucc32 v = v + 1 := if_neg h

theorem satSucc32_ne_zero (v : Word) : satSucc32 v ≠ 0#32 := by
  intro h
  have hpos := satSucc32_toNat_pos v
  rw [h] at hpos
  exact absurd hpos (by decide)

/-- A beat that commits is the newest stream-B beat, no sample behind; any other adds a sample (42 R151). -/
theorem SampleDistance.acceptBeat {b : Beat} {s : State} (h : SampleDistance s) : SampleDistance (acceptBeat b s) := by
  apply acceptBeat_keeps
  case hidle => exact fun _ => h
  case hterm => exact fun _ _ => of_not_run (finishBeat_not_run (by simp))
  case hcommit =>
    intro _ _ _ _ _
    refine ⟨by simp [satSucc32_ne_zero], fun _ => ?_⟩
    exact ⟨commitBeat (beatPolarity s.params b) b (advanceCounts s), s.streamB, by simp, by simp [commitBeat]⟩
  case hpass =>
    intro hd _ _ _ hsat
    have hsat : satSucc32 s.tcnt ≠ 0xFFFFFFFF := by simpa using hsat
    have hne : s.tcnt ≠ 0xFFFFFFFF := fun heq => hsat (by rw [heq]; rfl)
    obtain ⟨hfirst, hlater⟩ := h hd hne
    refine ⟨fun hbit => ?_, fun hbit => ?_⟩
    · have hsidx := hfirst (by simpa using hbit)
      simp [hsidx, satSucc32_of_ne hne]
    · obtain ⟨x, rest, hB, hsidx⟩ := hlater (by simpa using hbit)
      refine ⟨x, rest, by simpa using hB, ?_⟩
      simp [hsidx, satSucc32_of_ne hne, BitVec.add_assoc]
  case hdrain => exact fun hd => of_not_run (finishBeat_not_run (by simp [hd]))

/-- A beat that emits on stream B has committed on a qualifying edge, at `SIDX` (42 R159, R165). -/
theorem acceptBeat_emits {b : Beat} {s : State} {x : BBeat} (h : (acceptBeat b s).streamB = x :: s.streamB) :
    x.sidx = s.sidx ∧ s.edgeThr.toNat ≤ min (s.tcnt.toNat + 1) 0xFFFFFFFF := by
  revert h
  apply acceptBeat_keeps (fun t => t.streamB = x :: s.streamB → x.sidx = s.sidx ∧ _)
  case hcommit =>
    intro _ _ hq hB
    obtain ⟨hx, -⟩ : commitBeat _ b (advanceCounts s) = x ∧ s.streamB = s.streamB := by simpa using hB
    exact ⟨by rw [← hx]; rfl, ((qualifies_advance _ s).1 hq).1⟩
  all_goals
    intros
    rename_i hB
    simp at hB

/-- Settles O57: a capture stands where the source's decode commits; a restart and every accepted beat keep `SampleDistance`; and
a committing beat qualifies by the `TCNT` it speaks of. -/
theorem commitsAreSpaced : Obligations.CommitsAreSpaced := by
  refine ⟨fun s bs hfresh hcap hlen hdel => capture_commits_spaced hfresh hcap hlen hdel,
    fun s t hs h => sampleDistance_capture.step_of_beat (fun _ _ hs => hs.acceptBeat) h hs,
    fun s b x hs hd hsat hB => ?_⟩
  obtain ⟨hsidx, hedge⟩ := acceptBeat_emits hB
  obtain ⟨hfirst, hlater⟩ := hs hd hsat
  refine ⟨fun hbit => ?_, fun hbit => ?_⟩
  · rw [hsidx, hfirst hbit]
    omega
  · obtain ⟨y, rest, hy, hdist⟩ := hlater hbit
    refine ⟨y, rest, hy, ?_⟩
    have hlt : s.tcnt.toNat < 0xFFFFFFFF := by bv_omega
    have hsub : x.sidx - y.sidx = s.tcnt + 1 := by rw [hsidx, hdist]; bv_omega
    rw [hsub, toNat_succ_of_lt hlt]
    omega

end Sys2Proof.Machine
end

section
/-! PROOFS. The alignment unit (43 R180 to R185). An accepted beat makes the bit it commits the last bit, or keeps the last bit one
more sample, and annotates its sample with the last bit then (`acceptBeat_lastBit`, `acceptBeat_streamA`). Over a capture this is
the source's align of the stream-B beats, whatever the decoder commits (`TracksAlign`), and O55 says which beats these are. -/

namespace Sys2Proof.Machine

/-! ## One accepted beat (R181, R183, R184) -/

/-- The beat from `s` to `t` has committed the bit of the stream-B beat `x`, which is the last bit now (43 R181). -/
structure TakesBit (x : BBeat) (s t : State) : Prop where
  streamB : t.streamB = x :: s.streamB
  index : x.index = s.bitcnt
  sample : x.sidx = s.sidx
  bitcnt : t.bitcnt = satSucc32 s.bitcnt
  ahave : t.ahave = true
  aidx : t.aidx = x.index
  aval : t.aval = x.value
  asince : t.asince = 0

/-- The beat from `s` to `t` has committed nothing: the last bit is as before, one sample further back (43 R181). -/
structure KeepsBit (s t : State) : Prop where
  streamB : t.streamB = s.streamB
  bitcnt : t.bitcnt = s.bitcnt
  ahave : t.ahave = s.ahave
  aidx : t.aidx = s.aidx
  aval : t.aval = s.aval
  asince : t.asince = satSucc8 s.asince

/-- What an accepted beat can do to the last bit: only the beat that commits replaces it. -/
theorem acceptBeat_lastBit {b : Beat} {s : State} (hd : s.dstate ≠ .idle) :
    KeepsBit s (acceptBeat b s) ∨ ∃ x, TakesBit x s (acceptBeat b s) := by
  apply acceptBeat_keeps (fun t => KeepsBit s t ∨ ∃ x, TakesBit x s t)
  case hidle => exact fun hi => absurd hi hd
  case hterm => exact fun _ _ => .inl (by constructor <;> simp)
  case hcommit =>
    exact fun _ _ _ => .inr ⟨commitBeat (beatPolarity s.params b) b (advanceCounts s), by constructor <;> simp [commitBeat]⟩
  case hpass => exact fun _ _ _ => .inl (by constructor <;> simp)
  case hdrain => exact fun _ => .inl (by constructor <;> simp)

/-- Every accepted beat annotates its sample, if `ALIGN_EN` = 1, with the alignment registers it leaves (43 R181, R184). -/
theorem acceptBeat_streamA {b : Beat} {s : State} (hd : s.dstate ≠ .idle) :
    (acceptBeat b s).streamA =
      if s.alignEn then annotation b { acceptBeat b s with sidx := s.sidx } :: s.streamA else s.streamA := by
  apply acceptBeat_keeps
    (fun t => t.streamA = if s.alignEn then annotation b { t with sidx := s.sidx } :: s.streamA else s.streamA)
  case hidle => exact fun hi => absurd hi hd
  all_goals
    intros
    simp [annotation, alignPresent, alignUpdate_eq]

/-- The annotation of a sample by its two cases, a bit in the window and none (43 R181, R183). -/
theorem annotation_eq (b : Beat) (s : State) :
    annotation b s =
      if s.ahave = true ∧ s.asince.toNat ≤ 125 then
        { sidx := s.sidx, tag := wiredTag s.params b, voltage := wiredVoltage s.params b, present := true,
          bitIndex := s.aidx, bitValue := s.aval }
      else
        { sidx := s.sidx, tag := wiredTag s.params b, voltage := wiredVoltage s.params b, present := false,
          bitIndex := 0xFFFFFFFF, bitValue := false } := by
  have hpres : alignPresent s = true ↔ s.ahave = true ∧ s.asince.toNat ≤ 125 := by
    rw [alignPresent, Bool.and_eq_true, decide_eq_true_eq]
    rfl
  split
  · rename_i hin
    simp [annotation, hpres.2 hin]
  · rename_i hout
    simp [annotation, Bool.eq_false_iff.2 (mt hpres.1 hout), Config.noIndex]

/-- Settles O31: the beat takes its bit or keeps the last one, which its stream-B beat tells apart, and annotates its sample with
the outcome. -/
theorem alignStepOfAnAcceptedBeat : Obligations.AlignStepOfAnAcceptedBeat := by
  refine ⟨fun p b hp => copiesTheLanes hp b, fun s b hd => ?_⟩
  have hA := acceptBeat_streamA (b := b) hd
  refine ⟨fun x hB => ?_, fun hB => ?_, ?_, fun hen => by simpa [hen] using hA, fun hen => ?_⟩
  · obtain hkeep | ⟨y, htake⟩ := acceptBeat_lastBit (b := b) hd
    · exact absurd (hB.symm.trans hkeep.streamB) (List.cons_ne_self x s.streamB)
    · obtain ⟨rfl, -⟩ := List.cons.inj (htake.streamB.symm.trans hB)
      exact ⟨htake.ahave, htake.aidx, htake.aval, htake.asince⟩
  · obtain hkeep | ⟨y, htake⟩ := acceptBeat_lastBit (b := b) hd
    · exact ⟨hkeep.ahave, hkeep.aidx, hkeep.aval, hkeep.asince ▸ satSucc8_toNat s.asince⟩
    · exact absurd (htake.streamB.symm.trans hB) (List.cons_ne_self y s.streamB)
  · exact (acceptBeat_lastBit hd).imp (·.streamB) fun ⟨x, htake⟩ => ⟨x, htake.streamB⟩
  · rw [hA, if_pos hen, annotation_eq, acceptBeat_params]

/-! ## A whole capture (R180, R182, R185) -/

/-- The committed bits that stream-B beats tell of, as the source's align takes them: (value, sample index). -/
def commitsOf (beats : List BBeat) : List (Bool × Nat) := beats.map fun x => (x.value, x.sidx.toNat)

@[simp] theorem commitsOf_concat (beats : List BBeat) (x : BBeat) :
    commitsOf (beats ++ [x]) = commitsOf beats ++ [(x.value, x.sidx.toNat)] := by
  simp [commitsOf]

/-- Stream B tells the committed bits of a capture, which stand at samples of fewer than 2^32. -/
theorem commitsOf_expectedB (p : Params) (bs : List Beat) {cs : List (Bool × Nat)} (h : ∀ c ∈ cs, c.2 < 2 ^ 32) :
    commitsOf (expectedB p bs cs) = cs := by
  rw [commitsOf, expectedB, List.map_map]
  conv => rhs; rw [← List.zipIdx_map_fst 0 cs]
  refine List.map_congr_left fun c hc => ?_
  have hlt := h c.1 (by rw [← List.zipIdx_map_fst 0 cs]; exact List.mem_map_of_mem hc)
  exact Prod.ext rfl (Nat.mod_eq_of_lt hlt)

/-- The source's align looks at the last bit, or at the bits before it for a sample before its commit (43 R182). -/
theorem sourceAlign_concat (cs : List (Bool × Nat)) (c : Bool × Nat) (i : Nat) :
    sourceAlign (cs ++ [c]) i =
      if c.2 ≤ i then if i - c.2 ≤ Config.alignWin then some (cs.length, c.1) else none else sourceAlign cs i := by
  split
  · rename_i hle
    simp [sourceAlign, List.zipIdx_append, hle]
  · rename_i hlt
    simp [sourceAlign, List.zipIdx_append, hlt]

/-- The annotation of the sample `b` at index `i` by the source's align: an element of `expectedA`. -/
def sourceAnnotation (p : Params) (cs : List (Bool × Nat)) (b : Beat) (i : Nat) : ABeat :=
  { sidx := BitVec.ofNat 32 i, tag := wiredTag p b, voltage := wiredVoltage p b,
    present := (sourceAlign cs i).isSome,
    bitIndex := ((sourceAlign cs i).map (fun a => BitVec.ofNat 32 a.1)).getD Config.noIndex,
    bitValue := ((sourceAlign cs i).map (fun a => a.2)).getD false }

theorem expectedA_concat (p : Params) (bs : List Beat) (b : Beat) (cs : List (Bool × Nat)) :
    expectedA p (bs ++ [b]) cs = expectedA p bs cs ++ [sourceAnnotation p cs b bs.length] := by
  simp [expectedA, sourceAnnotation, List.zipIdx_append]

/-- A bit committed after these samples changes none of their annotations. -/
theorem expectedA_later_commit (p : Params) {bs : List Beat} (cs : List (Bool × Nat)) {c : Bool × Nat}
    (h : bs.length ≤ c.2) : expectedA p bs (cs ++ [c]) = expectedA p bs cs := by
  refine List.map_congr_left fun b hb => ?_
  have hlt : b.2 < bs.length := List.snd_lt_of_mem_zipIdx hb
  rw [sourceAlign_concat, if_neg (by omega)]

/-- The alignment registers hold the last of the committed bits, its ordinal, and how many samples it lies back (10_state R49,
R50, 43 R181). -/
inductive HoldsLastBit (s : State) : List (Bool × Nat) → Prop
  | absent (ahave : s.ahave = false) : HoldsLastBit s []
  | last (cs : List (Bool × Nat)) (c : Bool × Nat) (ahave : s.ahave = true) (aval : s.aval = c.1)
      (aidx : s.aidx = BitVec.ofNat 32 cs.length) (sample : c.2 < s.sidx.toNat)
      (asince : s.asince.toNat = min 255 (s.sidx.toNat - (c.2 + 1))) : HoldsLastBit s (cs ++ [c])

section Registers
variable {s t : State} {cs : List (Bool × Nat)} {x : BBeat}

/-- The start of a cycle and the environment's queues are no alignment register. -/
theorem HoldsLastBit.handOver (h : HoldsLastBit s cs) (rest : List Beat) : HoldsLastBit (handOver rest s) cs := by
  cases h with
  | absent ahave => exact .absent ahave
  | last cs c ahave aval aidx sample asince => exact .last cs c ahave aval aidx sample asince

/-- A beat that commits nothing leaves the last bit one sample further back. -/
theorem HoldsLastBit.keepsBit (h : HoldsLastBit s cs) (hkeep : KeepsBit s t) (hsidx : t.sidx.toNat = s.sidx.toNat + 1) :
    HoldsLastBit t cs := by
  cases h with
  | absent ahave => exact .absent (hkeep.ahave.trans ahave)
  | last cs c ahave aval aidx sample asince =>
    refine .last cs c (hkeep.ahave.trans ahave) (hkeep.aval.trans aval) (hkeep.aidx.trans aidx) (by omega) ?_
    rw [hkeep.asince, satSucc8_toNat, asince]
    omega

/-- A beat that commits leaves its bit as the last one, no sample back, and `BITCNT` was its ordinal. -/
theorem TakesBit.holdsLastBit (h : TakesBit x s t) (hcount : s.bitcnt.toNat = cs.length)
    (hsidx : t.sidx.toNat = s.sidx.toNat + 1) : HoldsLastBit t (cs ++ [(x.value, x.sidx.toNat)]) := by
  refine .last cs _ h.ahave h.aval ?_ ?_ ?_
  · rw [h.aidx, h.index, ← hcount, BitVec.ofNat_toNat, BitVec.setWidth_eq]
  · rw [h.sample]
    omega
  · rw [h.asince, h.sample, hsidx, Nat.sub_self]
    rfl

/-- Registers that hold the last bit annotate the sample behind them as the source's align does (43 R182): within the window
`ASINCE` is the distance, and beyond it `ASINCE` is beyond too. -/
theorem HoldsLastBit.annotation_eq (h : HoldsLastBit s cs) (b : Beat) {i : Word} (hi : s.sidx.toNat = i.toNat + 1) :
    annotation b { s with sidx := i } = sourceAnnotation s.params cs b i.toNat := by
  rw [Machine.annotation_eq]
  cases h with
  | absent ahave => simp [ahave, sourceAnnotation, sourceAlign, Config.noIndex]
  | last cs c ahave aval aidx sample asince =>
    have hle : c.2 ≤ i.toNat := by omega
    have hwin : s.asince.toNat ≤ 125 ↔ i.toNat - c.2 ≤ Config.alignWin := by
      rw [asince, hi, Config.alignWin]
      omega
    simp only [sourceAnnotation, sourceAlign_concat, if_pos hle, hwin, ahave, true_and]
    split <;> simp [aval, aidx, Config.noIndex]

end Registers

/-- The machine in mid-capture against the source's align: `s0` the state DECODE left, `front` the beats accepted so far, `beats`
the stream-B beats they brought. -/
structure TracksAlign (s0 : State) (front : List Beat) (beats : List BBeat) (s : State) : Prop where
  params : s.params = s0.params
  alignEn : s.alignEn = true
  sidx : s.sidx.toNat = front.length
  bitcnt : s.bitcnt.toNat = beats.length ∧ beats.length ≤ front.length
  streamB : s.streamB = beats.reverse ++ s0.streamB
  lastBit : HoldsLastBit s (commitsOf beats)
  streamA : s.streamA = (expectedA s0.params front (commitsOf beats)).reverse ++ s0.streamA

/-- Before the first beat nothing is committed and nothing annotated. -/
theorem FreshRun.tracksAlign {s : State} (h : FreshRun s) (hen : s.alignEn = true) : TracksAlign s [] [] s := by
  obtain ⟨-, -, -, -, hbit, hsidx, -, -, -, hhave, -⟩ := h
  exact ⟨rfl, hen, by simp [hsidx], by simp [hbit], rfl, .absent hhave, rfl⟩

@[simp] theorem acceptBeat_alignEn (b : Beat) (s : State) : (acceptBeat b s).alignEn = s.alignEn := by
  apply acceptBeat_keeps (fun t => t.alignEn = s.alignEn) <;> intros <;> simp

section Capture
variable {s0 s : State} {front : List Beat} {beats : List BBeat} {b : Beat}

/-- The start of a cycle and the environment's queues are no part of the relation. -/
theorem TracksAlign.handOver (h : TracksAlign s0 front beats s) (rest : List Beat) :
    TracksAlign s0 front beats (handOver rest s) :=
  { h with lastBit := h.lastBit.handOver rest }

/-- An accepted beat annotates its sample as the source's align does from the bits committed by then. -/
theorem TracksAlign.streamA_acceptBeat (h : TracksAlign s0 front beats s) (hd : s.dstate ≠ .idle) {cs : List (Bool × Nat)}
    (hsidx : (acceptBeat b s).sidx.toNat = s.sidx.toNat + 1) (hlast : HoldsLastBit (acceptBeat b s) cs)
    (hfront : expectedA s0.params front cs = expectedA s0.params front (commitsOf beats)) :
    (acceptBeat b s).streamA = (expectedA s0.params (front ++ [b]) cs).reverse ++ s0.streamA := by
  rw [acceptBeat_streamA hd, if_pos h.alignEn, hlast.annotation_eq b hsidx, acceptBeat_params, h.params, h.sidx, h.streamA,
    expectedA_concat, hfront]
  simp

/-- Every accepted beat of a capture is annotated as the source's align does, with its bit if it commits one. -/
theorem TracksAlign.acceptsBeat (h : TracksAlign s0 front beats s) (hroom : front.length < 0xFFFFFFFF) (hd : s.dstate ≠ .idle) :
    ∃ beats', TracksAlign s0 (front ++ [b]) beats' (acceptBeat b s) := by
  obtain ⟨hcount, hfew⟩ := h.bitcnt
  have hsidx : (acceptBeat b s).sidx.toNat = s.sidx.toNat + 1 := by
    rw [acceptBeat_sidx hd, toNat_succ_of_lt (h.sidx ▸ hroom)]
  have hparams := (acceptBeat_params b s).trans h.params
  have hen := (acceptBeat_alignEn b s).trans h.alignEn
  have hplace : (acceptBeat b s).sidx.toNat = (front ++ [b]).length := by simp [hsidx, h.sidx]
  obtain hkeep | ⟨x, htake⟩ := acceptBeat_lastBit (b := b) hd
  · have hlast := h.lastBit.keepsBit hkeep hsidx
    have hbit : (acceptBeat b s).bitcnt.toNat = beats.length := by rw [hkeep.bitcnt, hcount]
    exact ⟨beats, hparams, hen, hplace, ⟨hbit, by simp [Nat.le_succ_of_le hfew]⟩, hkeep.streamB.trans h.streamB, hlast,
      h.streamA_acceptBeat hd hsidx hlast rfl⟩
  · have hlast := htake.holdsLastBit (cs := commitsOf beats) (by simp [commitsOf, hcount]) hsidx
    have hbit : (acceptBeat b s).bitcnt.toNat = s.bitcnt.toNat + 1 := by
      rw [htake.bitcnt, satSucc32_toNat_of_lt (by omega)]
    have hA := h.streamA_acceptBeat hd hsidx hlast (expectedA_later_commit _ _ (by simp [htake.sample, h.sidx]))
    rw [← commitsOf_concat] at hlast hA
    exact ⟨beats ++ [x], hparams, hen, hplace, by simp [hbit, hcount, hfew], by simp [htake.streamB, h.streamB], hlast, hA⟩

end Capture

/-- Over a capture stream A is the source's align of what stream B tells, whatever the decoder commits (43 R180, R182). -/
theorem capture_streamA {s : State} {bs : List Beat} (hfresh : FreshRun s) (hen : s.alignEn = true) (hcap : IsCapture bs)
    (hlen : bs.length < 2 ^ 32) (hdel : Delivers bs s) :
    ∃ t beats, Host.Core.run core bs.length s = .next t ∧ t.streamB = beats.reverse ++ s.streamB ∧
      t.streamA = (expectedA s.params bs (commitsOf beats)).reverse ++ s.streamA := by
  obtain ⟨t, hrun, ⟨front, beats, hfront, ht⟩, -⟩ :=
    run_capture_keeps (fun todo u => ∃ front beats, bs = front ++ todo ∧ TracksAlign s front beats u)
      (fun _ rest _ ⟨front, beats, hbs, h⟩ => ⟨front, beats, hbs, h.handOver rest⟩)
      (fun b todo u hd _ ⟨front, beats, hbs, h⟩ => by
        have hroom : front.length < 0xFFFFFFFF := by
          rw [hbs, List.length_append, List.length_cons] at hlen
          omega
        obtain ⟨beats', h'⟩ := h.acceptsBeat (b := b) hroom hd
        exact ⟨front ++ [b], beats', by simp [hbs], h'⟩)
      hcap hdel (by simp [hfresh.1]) ⟨[], [], rfl, hfresh.tracksAlign hen⟩
  obtain rfl : bs = front := by simpa using hfront
  exact ⟨t, beats, hrun, ht.streamB, ht.streamA⟩

/-- Settles O56: stream A is the source's align of what stream B tells, and by O55 that is the source's decode. -/
theorem captureIsTheSourcesAlign : Obligations.CaptureIsTheSourcesAlign := by
  intro s bs hfresh hen hcap hlen hdel
  obtain ⟨t, beats, hrun, hB, hA⟩ := capture_streamA hfresh hen hcap hlen hdel
  obtain ⟨t', hrun', hB', -⟩ := captureIsTheSourcesDecode s bs hfresh hcap hlen hdel
  obtain rfl : t = t' := Host.Outcome.next.inj (hrun.symm.trans hrun')
  obtain rfl := List.reverse_inj.1 (List.append_cancel_right (hB.symm.trans hB'))
  refine ⟨t, hrun, ?_⟩
  rw [hA, commitsOf_expectedB]
  obtain ⟨hmem, -⟩ := sourceDecodeFrom_spaced s.edgeThr.toNat s.gapThr.toNat 0 0 0 .neg 0 (polarities s.params bs)
  rw [polarities, List.length_map, ← polarities, ← sourceDecode] at hmem
  intro c hc
  have := hmem c hc
  omega

end Sys2Proof.Machine
end

section
/-! PROOFS. The frame locator (44 R190 to R193): the search finds just the `LeftmostMatch`, LOCATE reports it, and `Located` is
kept by every step. Once a match is reported, only CLEAR, DECODE and reset, which withdraw it, change the BitString it stands in. -/

namespace Sys2Proof.Machine

/-! ## The search (R191) -/

/-- The pattern's bits by place are those of the number 0xAAAAAAAAAAAB (00_scope R9). -/
theorem patternBit_eq_getMsbD : ∀ k, k < 48 → patternBit k = Config.pattern.getMsbD k := by decide

theorem patternAt_eq_true_iff {s : State} {k : Nat} : patternAt s k = true ↔ PatternStandsAt s k := by
  simp only [patternAt, List.all_eq_true, List.mem_range, beq_iff_eq]
  exact forall₂_congr fun j hj => by rw [patternBit_eq_getMsbD j hj]

theorem patternAt_eq_false_iff {s : State} {k : Nat} : patternAt s k = false ↔ ¬ PatternStandsAt s k := by
  rw [← patternAt_eq_true_iff, Bool.not_eq_true]

theorem firstMatch_eq_some_iff {s : State} {k : Nat} : firstMatch s = some k ↔ LeftmostMatch s s.latch.bitlen k := by
  simp only [firstMatch_eq_some, patternAt_eq_true_iff, patternAt_eq_false_iff, LeftmostMatch]

theorem firstMatch_eq_none_iff {s : State} :
    firstMatch s = none ↔ ∀ k, k + 48 ≤ s.latch.bitlen → ¬ PatternStandsAt s k := by
  simp only [firstMatch_eq_none, patternAt_eq_false_iff]

/-! ## LOCATE (R190, R192) -/

theorem exec_locate_of_run {s : State} (hd : s.dstate = .run) : exec .locate s = .next (complete .conflict s) :=
  (execLocate_eq s).trans (if_pos hd)

theorem exec_locate_of_match {s : State} {k : Nat} (hd : s.dstate ≠ .run) (hk : firstMatch s = some k) :
    exec .locate s = .next (complete .ok { s with found := true, frameOffset := BitVec.ofNat 32 (k + 48) }) := by
  rw [exec, execLocate_eq, if_neg hd, hk]
  rfl

theorem exec_locate_of_no_match {s : State} (hd : s.dstate ≠ .run) (hk : firstMatch s = none) :
    exec .locate s = .next (complete .notFound { s with found := false, frameOffset := Config.noIndex }) := by
  rw [exec, execLocate_eq, if_neg hd, hk]

/-- Settles O16: LOCATE is row 0x20, and its search succeeds just at the leftmost match. -/
theorem locateFindsTheLeftmostMatch : Obligations.LocateFindsTheLeftmostMatch :=
  ⟨issuedAs_of_row (by decide) (fun _ => rfl) (fun _ => rfl), rfl, rfl,
    fun _ _ hd hk => (exec_locate_of_match hd (firstMatch_eq_some_iff.2 hk)).trans (congrArg _ (complete_ok _)),
    fun _ hd hno => (exec_locate_of_no_match hd (firstMatch_eq_none_iff.2 hno)).trans
      (congrArg _ (complete_error _ _ (by decide))),
    fun _ hd => (exec_locate_of_run hd).trans (congrArg _ (complete_error _ _ (by decide)))⟩

/-! ## What FOUND and FRAME_OFFSET say (R192, R193) -/

/-- With no match reported and the offset 0xFFFFFFFF nothing is claimed of the BitString. -/
theorem Located.of_not_found {s : State} (hfound : s.found = false) (hoffset : s.frameOffset = Config.noIndex) : Located s :=
  ⟨fun _ => hoffset, fun h => absurd (hfound.symm.trans h) (by decide)⟩

/-- In RUN no match is reported: DECODE has withdrawn the one before (42 R153). -/
theorem Located.not_found_of_run {s : State} (hs : Located s) (hd : s.dstate = .run) :
    s.found = false ∧ s.frameOffset = Config.noIndex := by
  obtain ⟨hlost, hfound⟩ := hs
  have hf : s.found = false := Bool.eq_false_iff.2 fun h => (hfound h).1 hd
  exact ⟨hf, hlost hf⟩

/-- A match within the latched length is the leftmost one of the whole BitString, and its end, at most `BITCNT`, fits the
register. -/
theorem Located.of_match {s : State} {k : Nat} (hlen : s.latch.bitlen ≤ bitLen s) (hd : s.dstate ≠ .run)
    (hk : firstMatch s = some k) : Located { s with found := true, frameOffset := BitVec.ofNat 32 (k + 48) } := by
  obtain ⟨hend, hpattern, hleft⟩ := firstMatch_eq_some_iff.1 hk
  have hfits : k + 48 < 2 ^ 32 :=
    calc k + 48 ≤ bitLen s := Nat.le_trans hend hlen
      _ ≤ s.bitcnt.toNat := Nat.min_le_left _ _
      _ < 2 ^ 32 := s.bitcnt.isLt
  have hoffset : (BitVec.ofNat 32 (k + 48)).toNat = k + 48 := (BitVec.toNat_ofNat _ _).trans (Nat.mod_eq_of_lt hfits)
  exact ⟨fun h => Bool.noConfusion h, fun _ => ⟨hd, k, ⟨Nat.le_trans hend hlen, hpattern, hleft⟩, hoffset⟩⟩

/-- LOCATE reports what the search found, DECODE and CLEAR withdraw it, and no other command touches it. -/
theorem Located.exec {i : Instr} {s t : State} (h : exec i s = .next t) (hlen : s.latch.bitlen ≤ bitLen s) (hs : Located s) :
    Located t := by
  cases exec_cases h with
  | cleared | started | notLocated => exact of_not_found rfl rfl
  | located k _ hd hk => exact (of_match hlen hd hk :)
  | stored bytes =>
    rw [outWriteAll_eq]
    exact hs
  | reported | computed => exact hs

theorem Located.completion {s t : State} (h : completionEvent s = .next t) (hlen : LatchedLength s) (hs : Located s) :
    Located t := by
  obtain ⟨-, rfl⟩ | ⟨hb, i, u, -, hexec, rfl⟩ := completionEvent_cases h
  · exact hs
  · exact (exec hexec (hlen hb) hs :)

/-- A command that runs at its issue finds there the `BITLEN` it latches. -/
theorem Located.issue {w : Word} {s t : State} (h : issue w s = .next t) (hs : Located s) : Located t := by
  obtain ⟨-, rfl⟩ | ⟨-, -, rfl⟩ | ⟨-, i, -, -, rfl⟩ | ⟨-, i, -, -, hexec⟩ := issue_cases h
  · exact hs
  · exact hs
  · exact hs
  · exact exec hexec (Nat.le_refl (bitLen s)) hs

/-- A beat in RUN finds no match reported, and reports none; a beat in DRAIN leaves the BitString alone (42 R162). -/
theorem Located.acceptBeat {b : Beat} {s : State} (hs : Located s) : Located (acceptBeat b s) := by
  apply acceptBeat_keeps
  case hidle => exact fun _ => hs
  case hdrain =>
    intro hd
    obtain ⟨hlost, hfound⟩ := hs
    refine ⟨by simpa using hlost, fun h => ?_⟩
    obtain ⟨hrest, hmatch⟩ := hfound (by simpa using h)
    exact ⟨finishBeat_not_run hrest, by simpa [LeftmostMatch, PatternStandsAt, bitRead, bitLen] using hmatch⟩
  all_goals
    intro hrun
    obtain ⟨hfound, hoffset⟩ := hs.not_found_of_run hrun
    intros
    exact of_not_found (by simpa using hfound) (by simpa using hoffset)

/-- The invariant that carries the proof: a LOCATE that is running will search a part of the BitString. -/
def LocatedWithin (s : State) : Prop := LatchedLength s ∧ Located s

theorem LocatedWithin.takeBeat {s : State} (hs : LocatedWithin s) : LocatedWithin (takeBeat s) := by
  obtain ⟨hlen, hloc⟩ := hs
  refine ⟨hlen.takeBeat, ?_⟩
  obtain heq | ⟨b, rest, heq⟩ := takeBeat_eq s <;> rw [heq]
  · exact hloc
  · exact Located.acceptBeat hloc

theorem LocatedWithin.completion {s t : State} (h : completionEvent s = .next t) (hs : LocatedWithin s) : LocatedWithin t := by
  obtain ⟨hlen, hloc⟩ := hs
  exact ⟨.of_idle (completionEvent_busy h), hloc.completion h hlen⟩

theorem LocatedWithin.hostAccess {op : Option HostOp} {s t : State} (h : hostAccess op s = .next t) (hs : LocatedWithin s) :
    LocatedWithin t := by
  obtain rfl | ⟨offset, rfl⟩ | ⟨offset, data, hw⟩ := hostAccess_cases h
  · exact hs
  · exact hs
  · cases writeWord_cases hw with
    | issued _ hissue =>
      obtain ⟨hlen, hloc⟩ := hs
      exact ⟨hlen.issue hissue, hloc.issue hissue⟩
    | _ => exact hs

theorem locatedWithin_resetCycle (op : Option HostOp) (s : State) : LocatedWithin (resetCycle op s) := by
  unfold resetCycle
  split <;> exact ⟨.of_idle rfl, .of_not_found rfl rfl⟩

/-- Settles O53: every event keeps `Located` together with the bound on the length a running LOCATE searches. -/
theorem stepKeepsLocated : Obligations.StepKeepsLocated := by
  intro s t _ hlen hloc h
  obtain ⟨-, ht⟩ : LocatedWithin t :=
    step_keeps LocatedWithin (fun _ hs => hs) (fun _ hs => hs.takeBeat) (fun _ _ hs h => hs.completion h)
      (fun _ _ _ hs h => hs.hostAccess h) (fun op s _ => locatedWithin_resetCycle op s) ⟨hlen, hloc⟩ h
  exact ht

end Sys2Proof.Machine
end

section
/-! PROOFS. The octet formatter (45 R200 to R205): the bits of an octet and of its reversal, the octets of a range, the text of an
octet and of an address, and the store they all end in. CHUNK and ADDR make one set of checks (`formatRange`), and differ in what
they make of the octets. -/

namespace Sys2Proof.Machine

/-! ## Octets (20_memory R78) -/

/-- Bit 7 - `k` of an octet is the bit at place `k`: the octet is the sum of its bits from the last place on. -/
theorem octetOf_getLsbD (bit : Nat → Bool) {k : Nat} (hk : k < 8) : (octetOf bit).getLsbD (7 - k) = bit k := by
  have hrange : List.range 8 = [0, 1, 2, 3, 4, 5, 6, 7] := rfl
  have hsum : octetOf bit =
      BitVec.ofNat 8 ((List.range 8).foldl (fun acc j => acc + (bit (7 - j)).toNat * 2 ^ j) 0) := by
    simp only [octetOf, hrange, List.foldl_cons, List.foldl_nil, Nat.reduceSub]
    congr 1
    omega
  have hlt : 7 - k < 8 := by omega
  have hback : 7 - (7 - k) = k := by omega
  rw [hsum, BitVec.getLsbD_ofNat, (testBit_foldl_bits (fun j => bit (7 - j)) 8).2 (7 - k) hlt, hback]
  simp [hlt]

theorem bitrev8_getLsbD (o : Byte) {k : Nat} (hk : k < 8) : (bitrev8 o).getLsbD k = o.getLsbD (7 - k) := by
  have hback : 7 - (7 - k) = k := by omega
  have h := octetOf_getLsbD (fun j => o.getLsbD j) (k := 7 - k) (by omega)
  rwa [hback] at h

theorem bitrev8_bitrev8 (o : Byte) : bitrev8 (bitrev8 o) = o := by
  refine BitVec.eq_of_getLsbD_eq fun k hk => ?_
  have hback : 7 - (7 - k) = k := by omega
  rw [bitrev8_getLsbD _ hk, bitrev8_getLsbD _ (by omega), hback]

/-- Place `k` of the octet from bit index `i`, in the order `R` asks for (30_encoding R101). -/
theorem maybeReverse_octet_getLsbD (s : State) (r : Bool) (i : Nat) {k : Nat} (hk : k < 8) :
    (maybeReverse r (octet s i)).getLsbD (if r then k else 7 - k) = bitRead s (i + k) := by
  have hplace : (octet s i).getLsbD (7 - k) = bitRead s (i + k) := octetOf_getLsbD _ hk
  cases r with
  | false => exact hplace
  | true => exact (bitrev8_getLsbD _ hk).trans hplace

/-- The octets that `SrcOctets` gives once its checks have passed (45 R200). -/
def rangeOctets (s : State) (src n : Nat) (r : Bool) : List Byte :=
  (List.range n).map (fun i => maybeReverse r (octet s (src + 8 * i)))

@[simp] theorem rangeOctets_length (s : State) (src n : Nat) (r : Bool) : (rangeOctets s src n r).length = n := by
  simp [rangeOctets]

theorem octetsOf_rangeOctets (s : State) (src n : Nat) (r : Bool) : OctetsOf s src n r (rangeOctets s src n r) := by
  refine ⟨rangeOctets_length s src n r, fun i k hi hk => ?_⟩
  have hget : (rangeOctets s src n r).getD i 0 = maybeReverse r (octet s (src + 8 * i)) := by
    simp [rangeOctets, List.getD_eq_getElem?_getD, hi]
  rw [hget]
  exact maybeReverse_octet_getLsbD s r _ hk

/-! ## REVB (R202) -/

theorem exec_revb (s : State) :
    exec .revb s = .next (complete .ok { s with result := (bitrev8 (s.latch.opa.setWidth 8)).setWidth 32 }) := rfl

/-- Settles O18: REVB is row 0x31, and its word is the octet of OPA with the bits reversed, widened with zeros. -/
theorem revbReversesTheOctet : Obligations.RevbReversesTheOctet := by
  refine ⟨issuedAs_of_row (by decide) (fun _ => rfl) (fun _ => rfl), fun s => ?_, bitrev8_bitrev8⟩
  refine ⟨_, fun k hk => ?_, ?_, (exec_revb s).trans (congrArg _ (complete_ok _))⟩
  · have hword : k < 32 := by omega
    have hoctet : 7 - k < 8 := by omega
    simp [bitrev8_getLsbD _ hk, hword, hoctet]
  · have hlt := (bitrev8 (s.latch.opa.setWidth 8)).isLt
    rw [BitVec.toNat_setWidth]
    omega

/-! ## Storing (R201, R204, R205) -/

theorem storeOut_of_full {bytes : List Byte} {s : State} (h : s.params.outbufDepth < s.latch.dst.toNat + bytes.length) :
    storeOut bytes s = complete .range s := if_pos h

theorem storeOut_of_fits {bytes : List Byte} {s : State} (h : s.latch.dst.toNat + bytes.length ≤ s.params.outbufDepth) :
    storeOut bytes s =
      complete .ok { outWriteAll s.latch.dst.toNat bytes s with outlen := BitVec.ofNat 32 bytes.length } :=
  if_neg (Nat.not_lt.2 h)

theorem storedAt_outWriteAll (dst : Nat) (bytes : List Byte) (s : State) : StoredAt dst bytes s (outWriteAll dst bytes s) := by
  refine ⟨fun j hj => ?_, fun a ha => ?_⟩ <;> rw [outRead_outWriteAll]
  · rw [if_pos (by omega), Nat.add_sub_cancel_left]
  · rw [if_neg (by omega)]

/-- Where the bytes fit, the store puts them into OUTBUF and their number into `OUTLEN`, and reports OK. -/
theorem storeOut_stores {bytes : List Byte} {s : State} (h : s.latch.dst.toNat + bytes.length ≤ s.params.outbufDepth) :
    StoredAt s.latch.dst.toNat bytes s (storeOut bytes s) ∧
    storeOut bytes s =
      { s with
        outbuf := (storeOut bytes s).outbuf, outlen := BitVec.ofNat 32 bytes.length,
        err := .ok, irqStatus := s.irqStatus ||| 0b00100#5, irqSetNow := s.irqSetNow ||| 0b00100#5 } := by
  rw [storeOut_of_fits h]
  refine ⟨storedAt_outWriteAll s.latch.dst.toNat bytes s, ?_⟩
  rw [outWriteAll_eq]
  rfl

/-! ## Hexadecimal text (R203, R205) -/

/-- The low `w` hexadecimal digits of a number, the most significant first (20_memory R81). -/
def lowHexDigits (w o : Nat) : List Byte := (List.range w).map (fun j => hexDigit (o / 16 ^ (w - 1 - j) % 16))

theorem hexText_eq_lowHexDigits (o pad : Nat) : hexText o pad = lowHexDigits (hexWidth o pad) o :=
  List.map_congr_left fun _ _ => apply_ite _ _ _ _

theorem lowHexDigits_zero (o : Nat) : lowHexDigits 0 o = [] := rfl

theorem lowHexDigits_succ (w o : Nat) : lowHexDigits (w + 1) o = hexDigit (o / 16 ^ w % 16) :: lowHexDigits w o := by
  simp only [lowHexDigits, List.range_succ_eq_map, List.map_cons, List.map_map]
  refine congrArg _ (List.map_congr_left fun j _ => ?_)
  have hexp : w + 1 - 1 - (j + 1) = w - 1 - j := by omega
  simp only [Function.comp, Nat.succ_eq_add_one, hexp]

/-- The digits above a number that `w` digits hold are zeros. -/
theorem lowHexDigits_add {w o : Nat} (h : o < 16 ^ w) (k : Nat) :
    lowHexDigits (w + k) o = List.replicate k zeroDigit ++ lowHexDigits w o := by
  induction k with
  | zero => rfl
  | succ k ih =>
    have hzero : o / 16 ^ (w + k) = 0 :=
      Nat.div_eq_of_lt (Nat.lt_of_lt_of_le h (Nat.pow_le_pow_right (by decide) (Nat.le_add_right w k)))
    rw [← Nat.add_assoc, lowHexDigits_succ, ih, hzero]
    rfl

theorem hexDigits_length (o : Byte) : (hexDigits o).length = if o.toNat < 16 then 1 else 2 := apply_ite _ _ _ _

/-- The digits of an octet with no leading zero hold all of it: it is below 16, or below 16². -/
theorem hexDigits_eq_lowHexDigits (o : Byte) :
    o.toNat < 16 ^ (hexDigits o).length ∧ hexDigits o = lowHexDigits (hexDigits o).length o.toNat := by
  have hlt : o.toNat < 256 := o.isLt
  unfold hexDigits
  split
  · rename_i hone
    exact ⟨hone, by simp [lowHexDigits_succ, lowHexDigits_zero, Nat.mod_eq_of_lt hone]⟩
  · have hhigh : o.toNat / 16 < 16 := by omega
    exact ⟨hlt, by simp [lowHexDigits_succ, lowHexDigits_zero, Nat.mod_eq_of_lt hhigh]⟩

theorem hexStr_eq_hexText (o : Byte) (pad : Nat) : hexStr o pad = hexText o.toNat pad := by
  obtain ⟨hlt, hdigits⟩ := hexDigits_eq_lowHexDigits o
  have hwidth : hexWidth o.toNat pad = (hexDigits o).length + (max pad (hexDigits o).length - (hexDigits o).length) := by
    rw [hexWidth, ← hexDigits_length]
    omega
  rw [hexText_eq_lowHexDigits, hwidth, lowHexDigits_add hlt, ← hdigits]
  rfl

@[simp] theorem hexText_length (o pad : Nat) : (hexText o pad).length = hexWidth o pad := by
  simp [hexText]

theorem addrText_eq_intercalate (pad : Nat) (os : List Byte) :
    addrText pad os = List.intercalate [0x3A] (os.map (fun o => hexText o.toNat pad)) := by
  induction os with
  | nil => rfl
  | cons o os ih =>
    cases os with
    | nil => exact (hexStr_eq_hexText o pad).trans List.intercalate_singleton.symm
    | cons o' os =>
      rw [addrText, ih, hexStr_eq_hexText]
      · exact (List.append_assoc _ [colon] _).symm.trans List.intercalate_cons_cons.symm
      · exact List.cons_ne_nil _ _

/-- The text of an address is the texts of its octets and a colon between each two (45 R205). -/
theorem addrText_length (pad : Nat) (os : List Byte) :
    (addrText pad os).length = (os.map (fun o => hexWidth o.toNat pad)).sum + (os.length - 1) := by
  rw [addrText_eq_intercalate]
  induction os with
  | nil => rfl
  | cons o os ih =>
    cases os with
    | nil => simp
    | cons o' os =>
      simp only [List.map_cons, List.intercalate_cons_cons, List.length_append, List.length_cons, List.sum_cons,
        List.length_nil, hexText_length] at ih ⊢
      omega

theorem hexWidth_two (o : Nat) : hexWidth o 2 = 2 := by
  unfold hexWidth
  split <;> rfl

theorem addrText_two_length (os : List Byte) : (addrText 2 os).length = 3 * os.length - 1 := by
  simp only [addrText_length, hexWidth_two, List.map_const', List.sum_replicate_nat]
  omega

/-! ## HEXB (R204) -/

theorem exec_hexb (pad : Nat) (s : State) :
    exec (.hexb pad) s = .next (storeOut (hexText (s.latch.opa.toNat % 256) pad) s) := by
  have hoctet : (s.latch.opa.setWidth 8).toNat = s.latch.opa.toNat % 256 := BitVec.toNat_setWidth _ _
  rw [exec, execHexb, hexStr_eq_hexText, hoctet]

/-- Settles O19: HEXB is row 0x32, and it stores the text of OPA's octet, which is `hexWidth` digits long. -/
theorem hexbStoresTheText : Obligations.HexbStoresTheText := by
  refine ⟨issuedAs_of_row (by decide) (fun w => ?_) (fun _ => rfl), rfl, fun s pad hfits => ?_, fun s pad hfull => ?_⟩
  · rw [← padField_toNat]
    rfl
  · rw [← hexText_length] at hfits ⊢
    obtain ⟨hstored, heq⟩ := storeOut_stores hfits
    exact ⟨_, exec_hexb pad s, hstored, heq⟩
  · rw [← hexText_length] at hfull
    rw [exec_hexb, storeOut_of_full hfull, complete_error _ _ (by decide)]

/-! ## CHUNK and ADDR (R200, R201, R205) -/

/-- What CHUNK and ADDR have in common: CONFLICT in RUN, the checks of `SrcOctets`, and the store of what `text` makes of the
octets. -/
def formatRange (text : List Byte → List Byte) (r : Bool) (s : State) : Host.Outcome State Fault Refusal :=
  if s.dstate = .run then .next (complete .conflict s)
  else match srcOctets s.latch.src s.latch.len r s with
    | .error code => .next (complete code s)
    | .ok octets => .next (storeOut (text octets) s)

theorem exec_chunk (r : Bool) (s : State) : exec (.chunk r) s = formatRange id r s := execChunk_eq r s

theorem exec_addr (r : Bool) (pad : Nat) (s : State) : exec (.addr r pad) s = formatRange (addrText pad) r s :=
  execAddr_eq r pad s

section FormatRange
variable {text : List Byte → List Byte} {r : Bool} {s : State}

theorem formatRange_of_run (hd : s.dstate = .run) : formatRange text r s = .next (complete .conflict s) := if_pos hd

theorem formatRange_of_malformed (hd : s.dstate ≠ .run) (hlen : s.latch.len.toNat % 8 ≠ 0) :
    formatRange text r s = .next (complete .malformed s) := by
  rw [formatRange, if_neg hd, srcOctets, if_pos hlen]

theorem formatRange_of_source_range (hd : s.dstate ≠ .run) (hlen : s.latch.len.toNat % 8 = 0)
    (hsrc : bitLen s < s.latch.src.toNat + s.latch.len.toNat) : formatRange text r s = .next (complete .range s) := by
  rw [formatRange, if_neg hd, srcOctets, if_neg (not_not_intro hlen), if_pos hsrc]

theorem formatRange_of_source_fits (hd : s.dstate ≠ .run) (hlen : s.latch.len.toNat % 8 = 0)
    (hsrc : s.latch.src.toNat + s.latch.len.toNat ≤ bitLen s) :
    ∃ os, OctetsOf s s.latch.src.toNat (s.latch.len.toNat / 8) r os ∧ formatRange text r s = .next (storeOut (text os) s) := by
  refine ⟨_, octetsOf_rangeOctets s _ _ r, ?_⟩
  rw [formatRange, if_neg hd, srcOctets, if_neg (not_not_intro hlen), if_neg (Nat.not_lt.2 hsrc)]
  rfl

/-- OK is reported only where every check has passed and the text is stored. -/
theorem formatRange_outlen_of_ok {t : State} (h : formatRange text r s = .next t) (hok : t.err = .ok) :
    ∃ os, OctetsOf s s.latch.src.toNat (s.latch.len.toNat / 8) r os ∧ t.outlen = BitVec.ofNat 32 (text os).length := by
  have herror {c : ErrCode} (hc : c ≠ .ok) : formatRange text r s ≠ .next (complete c s) := fun heq => by
    rw [heq] at h
    cases h
    exact hc hok
  by_cases hd : s.dstate = .run
  · exact absurd (formatRange_of_run hd) (herror (by decide))
  by_cases hlen : s.latch.len.toNat % 8 = 0
  case neg => exact absurd (formatRange_of_malformed hd hlen) (herror (by decide))
  obtain hsrc | hsrc := Nat.lt_or_ge (bitLen s) (s.latch.src.toNat + s.latch.len.toNat)
  · exact absurd (formatRange_of_source_range hd hlen hsrc) (herror (by decide))
  obtain ⟨os, hoctets, heq⟩ := formatRange_of_source_fits (text := text) (r := r) hd hlen hsrc
  refine ⟨os, hoctets, ?_⟩
  rw [heq] at h
  cases h
  obtain ⟨-, hout⟩ | ⟨-, hout⟩ := storeOut_cases (text os) s <;> rw [hout] at hok ⊢
  · cases hok
  · rfl

end FormatRange

/-- Settles O17: CHUNK is row 0x30, and stores the octets as they are, one byte each. -/
theorem chunkStoresTheOctets : Obligations.ChunkStoresTheOctets := by
  refine ⟨issuedAs_of_row (by decide) (fun _ => rfl) (fun _ => rfl), rfl, rfl, rfl, fun s r hd => ?_, fun s r hd hlen => ?_,
    fun s r hd hlen hsrc => ?_, fun s r hd hlen hsrc hfull => ?_, fun s r hd hlen hsrc hfits => ?_⟩ <;> rw [exec_chunk]
  · rw [formatRange_of_run hd, complete_error _ _ (by decide)]
  · rw [formatRange_of_malformed hd hlen, complete_error _ _ (by decide)]
  · rw [formatRange_of_source_range hd hlen hsrc, complete_error _ _ (by decide)]
  · obtain ⟨os, ⟨hlength, -⟩, heq⟩ := formatRange_of_source_fits (text := id) (r := r) hd hlen hsrc
    rw [← hlength] at hfull
    rw [heq, id, storeOut_of_full hfull, complete_error _ _ (by decide)]
  · obtain ⟨os, hoctets, heq⟩ := formatRange_of_source_fits (text := id) (r := r) hd hlen hsrc
    refine ⟨_, os, heq, hoctets, ?_⟩
    obtain ⟨hlength, -⟩ := hoctets
    rw [← hlength] at hfits ⊢
    exact storeOut_stores hfits

/-- Settles O20: ADDR is row 0x33, and stores the hexadecimal texts of the octets, joined by colons. -/
theorem addrStoresTheJoinedText : Obligations.AddrStoresTheJoinedText := by
  refine ⟨issuedAs_of_row (by decide) (fun w => ?_) (fun _ => rfl), fun s r pad hd => ?_, fun s r pad hd hlen => ?_,
    fun s r pad hd hlen hsrc => ?_, fun s r pad hd hlen hsrc => ?_⟩
  · rw [← padField_toNat]
    rfl
  all_goals rw [exec_addr]
  · rw [formatRange_of_run hd, complete_error _ _ (by decide)]
  · rw [formatRange_of_malformed hd hlen, complete_error _ _ (by decide)]
  · rw [formatRange_of_source_range hd hlen hsrc, complete_error _ _ (by decide)]
  · obtain ⟨os, hoctets, heq⟩ := formatRange_of_source_fits (text := addrText pad) (r := r) hd hlen hsrc
    rw [heq]
    refine ⟨os, _, hoctets, addrText_eq_intercalate pad os, fun hfits => ⟨_, rfl, storeOut_stores hfits⟩, fun hfull => ?_⟩
    rw [storeOut_of_full hfull, complete_error _ _ (by decide)]

/-- Settles O21: only the store reports OK, and its text has three characters for each octet but for the last one's colon. -/
theorem addrLengthAtPadTwo : Obligations.AddrLengthAtPadTwo := by
  intro s t r h hok
  obtain ⟨os, ⟨hlength, -⟩, hout⟩ := formatRange_outlen_of_ok ((exec_addr r 2 s).symm.trans h) hok
  rw [hout, addrText_two_length, hlength]

end Sys2Proof.Machine
end

section
/-! PROOFS. The report of a command (60 R230 to R233): every command completes with one code, set in `ERR` and in the interrupt
status; the code is that of the first check that fails; and with an error nothing but the report is written. -/

namespace Sys2Proof.Machine

/-! ## The interrupt events of a completion (R230, R234, R236) -/

/-- From `s` to `t` the interrupt events `bits` have been set, and no other: in the status, and in the record of the cycle. -/
def Raises (bits : BitVec 5) (s t : State) : Prop :=
  t.irqStatus = s.irqStatus ||| bits ∧ t.irqSetNow = s.irqSetNow ||| bits

theorem Raises.refl (s : State) : Raises 0#5 s s := ⟨BitVec.or_zero.symm, BitVec.or_zero.symm⟩

theorem Raises.trans {a b : BitVec 5} {s t u : State} (hst : Raises a s t) (htu : Raises b t u) : Raises (a ||| b) s u := by
  obtain ⟨hstatus, hnow⟩ := hst
  obtain ⟨hstatus', hnow'⟩ := htu
  exact ⟨by rw [hstatus', hstatus, BitVec.or_assoc], by rw [hnow', hnow, BitVec.or_assoc]⟩

/-- Every completion sets CMD_DONE, and one whose code is not OK CMD_ERR (R236). -/
theorem completionBits_eq (c : ErrCode) : completionBits c = if c = .ok then 0b00100#5 else 0b01100#5 := by
  cases c <;> rfl

/-- The one set event of a command is its completion, with the code it reports. -/
theorem exec_raises {i : Instr} {s t : State} (h : exec i s = .next t) : Raises (completionBits t.err) s t := by
  cases exec_cases h with
  | stored bytes => simp [Raises]
  | _ => exact ⟨rfl, rfl⟩

/-- Settles O8: every command answers, and what it answers has raised the bits of its code. -/
theorem everyCommandCompletesAndReports : Obligations.EveryCommandCompletesAndReports := by
  intro i s
  obtain ⟨t, h, -⟩ := exec_result i s
  obtain ⟨hstatus, -⟩ := exec_raises h
  exact ⟨t, h, completionBits_eq t.err ▸ hstatus⟩

/-! ## The code of a command (R231, R232) -/

/-- The octets of a range are determined by its bits. -/
theorem OctetsOf.unique {s : State} {src n : Nat} {r : Bool} {os os' : List Byte} (h : OctetsOf s src n r os)
    (h' : OctetsOf s src n r os') : os = os' := by
  obtain ⟨hlen, hbits⟩ := h
  obtain ⟨hlen', hbits'⟩ := h'
  refine List.ext_getElem (hlen.trans hlen'.symm) fun i hi hi' => BitVec.eq_of_getLsbD_eq fun j hj => ?_
  have hplace : (if r then (if r then j else 7 - j) else 7 - (if r then j else 7 - j)) = j := by
    cases r with
    | false => exact Nat.sub_sub_self (Nat.le_of_lt_succ hj)
    | true => rfl
  have hk : (if r then j else 7 - j) < 8 := by split <;> omega
  have heq := (hbits i _ (hlen ▸ hi) hk).trans (hbits' i _ (hlen ▸ hi) hk).symm
  rwa [hplace, List.getD_eq_getElem _ _ hi, List.getD_eq_getElem _ _ hi'] at heq

/-- A store reports RANGE where the bytes pass the end of OUTBUF, else OK. -/
theorem storeOut_err (bytes : List Byte) (s : State) :
    (storeOut bytes s).err = if s.params.outbufDepth < s.latch.dst.toNat + bytes.length then .range else .ok :=
  apply_ite _ _ _ _

/-- CHUNK and ADDR report by the checks of R232 in their order, when the text of the octets is `m` bytes long. -/
theorem formatRange_reports {text : List Byte → List Byte} {r : Bool} {s t : State} {m : Nat}
    (hm : ∀ os, OctetsOf s s.latch.src.toNat (s.latch.len.toNat / 8) r os → (text os).length = m)
    (h : formatRange text r s = .next t) : ReportsRange s t m := by
  by_cases hd : s.dstate = .run
  · rw [formatRange_of_run hd] at h
    cases h
    simp [ReportsRange, hd]
  by_cases hlen : s.latch.len.toNat % 8 = 0
  case neg =>
    rw [formatRange_of_malformed hd hlen] at h
    cases h
    simp [ReportsRange, hd, hlen]
  obtain hsrc | hsrc := Nat.lt_or_ge (bitLen s) (s.latch.src.toNat + s.latch.len.toNat)
  · rw [formatRange_of_source_range hd hlen hsrc] at h
    cases h
    simp [ReportsRange, hd, hlen, hsrc]
  · obtain ⟨os, hoctets, heq⟩ := formatRange_of_source_fits (text := text) hd hlen hsrc
    rw [heq] at h
    cases h
    rw [ReportsRange, storeOut_err, hm os hoctets]
    split <;> simp [hd, hlen] <;> omega

/-- Settles O22: each command by the lemmas about its `exec`, one for each outcome of its checks. -/
theorem errorCodePriority : Obligations.ErrorCodePriority := by
  refine ⟨fun w e s t hb hw h => ?_, fun i s t h => ?_⟩
  · rw [issue_of_decodeWord_error hb hw] at h
    cases h
    rfl
  cases i with
  | nop | clear | sign | edge | revb =>
    cases h
    rfl
  | decode =>
    by_cases hd : s.dstate = .idle
    · rw [exec_decode_of_idle hd] at h
      cases h
      simp [hd]
    · rw [exec_decode_of_ne_idle hd] at h
      cases h
      simp [hd]
  | clamp =>
    obtain hlt | hle := Int.lt_or_le s.latch.opc.toInt s.latch.opb.toInt
    · rw [exec_clamp_of_lt hlt] at h
      cases h
      simp [hlt]
    · rw [exec_clamp_of_le hle] at h
      cases h
      simp [hle]
  | locate =>
    by_cases hd : s.dstate = .run
    · rw [exec_locate_of_run hd] at h
      cases h
      simp [hd]
    cases hk : firstMatch s with
    | some k =>
      rw [exec_locate_of_match hd hk] at h
      cases h
      obtain ⟨hend, hpattern, -⟩ := firstMatch_eq_some_iff.1 hk
      have hex : ∃ k, k + 48 ≤ s.latch.bitlen ∧ PatternStandsAt s k := ⟨k, hend, hpattern⟩
      simpa [hd] using hex
    | none =>
      rw [exec_locate_of_no_match hd hk] at h
      cases h
      simpa [hd] using firstMatch_eq_none_iff.1 hk
  | chunk r => exact formatRange_reports (fun _ hos => hos.1) ((exec_chunk r s).symm.trans h)
  | hexb pad =>
    rw [exec_hexb] at h
    cases h
    simp only [storeOut_err, hexText_length]
    split <;> simp <;> omega
  | addr r pad =>
    intro os hos
    refine formatRange_reports (fun os' hos' => ?_) ((exec_addr r pad s).symm.trans h)
    rw [hos'.unique hos, addrText_length]

/-! ## What an error leaves (R233) -/

/-- The four codes of CHUNK and ADDR leave no case to another one. -/
theorem ReportsRange.err_ne_notFound {s t : State} {m : Nat} (h : ReportsRange s t m) : t.err ≠ .notFound := by
  intro hnf
  simp only [ReportsRange, hnf, reduceCtorEq, false_iff] at h
  obtain ⟨hd, hlen, hrange, hok⟩ := h
  simp only [ne_eq, hd, not_false_eq_true, true_and] at hlen hrange hok
  omega

/-- NOTFOUND is reported by LOCATE alone, which withdraws the match before. -/
theorem exec_notFound {i : Instr} {s t : State} (h : exec i s = .next t) (hnf : t.err = .notFound) :
    i = .locate ∧ t = complete .notFound { s with found := false, frameOffset := Config.noIndex } := by
  have hcode := errorCodePriority.2 i s t h
  cases i with
  | nop | clear | sign | edge | revb => exact absurd (hnf.symm.trans hcode) (by decide)
  | decode =>
    obtain ⟨hconflict, hok⟩ := hcode
    simp only [hnf, reduceCtorEq, false_iff] at hconflict hok
    exact absurd hok hconflict
  | clamp =>
    obtain ⟨hbad, hok⟩ := hcode
    simp only [hnf, reduceCtorEq, false_iff] at hbad hok
    omega
  | locate =>
    obtain ⟨-, hnone, -⟩ := hcode
    obtain ⟨hd, hno⟩ := hnone.1 hnf
    rw [exec_locate_of_no_match hd (firstMatch_eq_none_iff.2 hno)] at h
    cases h
    exact ⟨rfl, rfl⟩
  | chunk r => exact absurd hnf (ReportsRange.err_ne_notFound hcode)
  | hexb pad =>
    obtain ⟨hrange, hok⟩ := hcode
    simp only [hnf, reduceCtorEq, false_iff] at hrange hok
    omega
  | addr r pad => exact absurd hnf (ReportsRange.err_ne_notFound (hcode _ (octetsOf_rangeOctets s _ _ r)))

/-- A command that fails with another code has only reported it. -/
theorem exec_failed {i : Instr} {s t : State} (h : exec i s = .next t) (herr : t.err ≠ .ok) (hnf : t.err ≠ .notFound) :
    t = complete t.err s := by
  cases exec_cases h with
  | reported c => rfl
  | notLocated => exact absurd rfl hnf
  | _ => exact absurd rfl herr

/-- Settles O23: the failing command has only reported, or it is the LOCATE that found nothing. -/
theorem failedCommandWritesOnlyItsReport : Obligations.FailedCommandWritesOnlyItsReport := by
  refine ⟨fun i s t h herr => ?_, fun w e s hb hw => ?_⟩
  · by_cases hnf : t.err = .notFound
    · obtain ⟨hi, rfl⟩ := exec_notFound h hnf
      exact ⟨fun _ => hi, rfl⟩
    · refine ⟨fun h => absurd h hnf, ?_⟩
      rw [if_neg hnf, if_neg hnf, ← complete_error _ s herr]
      exact exec_failed h herr hnf
  · rw [issue_of_decodeWord_error hb hw, loadLatch_eq_latchOf]
    rfl

end Sys2Proof.Machine
end

section
/-! PROOFS. The cycle as the command engine sees it (20_memory R83, 60 R230, R236): the beat, the completion and the host access,
each answers, and a step is the three in this order. -/

namespace Sys2Proof.Machine

/-! ## The completion (R236) -/

theorem completionEvent_of_idle {s : State} (hb : s.busy = false) : completionEvent s = .next s := by
  simp [completionEvent, hb]

/-- The completion of a latched command answers, since every command does. -/
theorem completionEvent_of_busy {s : State} {i : Instr} (hb : s.busy = true) (hi : latchedInstr s.latch = some i) :
    ∃ t, exec i s = .next t ∧ completionEvent s = .next { t with busy := false } := by
  obtain ⟨t, hexec, -⟩ := exec_result i s
  exact ⟨t, hexec, by simp [completionEvent, hb, hi, hexec, andThen]⟩

theorem EngineHolds.completionEvent_answers {s : State} (hs : EngineHolds s) : ∃ t, completionEvent s = .next t := by
  cases hb : s.busy with
  | false => exact ⟨s, completionEvent_of_idle hb⟩
  | true =>
    obtain ⟨i, hi, -⟩ := hs hb
    obtain ⟨t, -, h⟩ := completionEvent_of_busy hb hi
    exact ⟨_, h⟩

/-- A beat leaves the engine alone, accepted or not. -/
theorem takeBeat_engine (s : State) : (takeBeat s).busy = s.busy ∧ (takeBeat s).latch = s.latch :=
  ⟨(congrArg State.busy (takeBeat_controls s) :), (congrArg State.latch (takeBeat_controls s) :)⟩

theorem EngineHolds.takeBeat {s : State} (hs : EngineHolds s) : EngineHolds (takeBeat s) := by
  obtain ⟨hbusy, hlatch⟩ := takeBeat_engine s
  rwa [EngineHolds, hbusy, hlatch]

/-! ## The host's access (R236, R237) -/

theorem issue_answers (w : Word) (s : State) : ∃ t, issue w s = .next t := by
  cases hb : s.busy with
  | true => exact ⟨_, issue_of_busy hb w⟩
  | false =>
    cases hw : decodeWord w with
    | error e => exact ⟨_, issue_of_decodeWord_error hb hw⟩
    | ok i =>
      cases hm : i.isMultiCycle with
      | true => exact ⟨_, issue_of_multiCycle hb hw hm⟩
      | false =>
        obtain ⟨t, hexec, -⟩ := exec_result i { s with latch := loadLatch w s }
        exact ⟨t, (issue_of_singleCycle hb hw hm).trans hexec⟩

theorem writeReg_answers (r : Reg) (data : Word) (s : State) : ∃ t, writeReg r data s = .next t := by
  cases r with
  | cmd => exact issue_answers data s
  | _ => exact ⟨_, rfl⟩

theorem hostAccess_answers (op : Option HostOp) (s : State) : ∃ t, hostAccess op s = .next t := by
  cases op with
  | none => exact ⟨s, rfl⟩
  | some op =>
    cases op with
    | read offset => exact ⟨_, rfl⟩
    | write offset data =>
      simp only [hostAccess, writeWord]
      split
      · exact writeReg_answers _ data s
      all_goals exact ⟨s, rfl⟩

/-! ## The cycle (20_memory R83) -/

/-- The state in which the completion of a cycle falls: after the beat, if the source offers one. -/
def afterBeat (c : Cycle) (s : State) : State := if c.sValid = true then takeBeat s else s

theorem afterBeat_busy (c : Cycle) (s : State) : (afterBeat c s).busy = s.busy := by
  unfold afterBeat
  split
  · exact (takeBeat_engine s).1
  · rfl

theorem EngineHolds.afterBeat {s : State} (c : Cycle) (hs : EngineHolds s) : EngineHolds (afterBeat c s) := by
  unfold Machine.afterBeat
  split
  · exact hs.takeBeat
  · exact hs

/-- With no completion, or none enabled, the host access comes after the beat. -/
theorem runCycle_without_completion {c : Cycle} {s : State} (h : c.complete = false ∨ (afterBeat c s).busy = false) :
    runCycle c s = hostAccess c.host (afterBeat c s) := by
  cases hc : c.complete with
  | false => simp [runCycle, hc, andThen, afterBeat]
  | true =>
    have hidle := completionEvent_of_idle (h.resolve_left (by simp [hc]))
    rw [afterBeat] at hidle ⊢
    simp only [runCycle, hc, if_true, hidle, andThen]

/-- With a completion the host access comes after it. -/
theorem runCycle_with_completion {c : Cycle} {s v : State} (hc : c.complete = true)
    (hv : completionEvent (afterBeat c s) = .next v) : runCycle c s = hostAccess c.host v := by
  rw [afterBeat] at hv
  simp only [runCycle, hc, if_true, hv, andThen]

theorem EngineHolds.runCycle_answers {s : State} (c : Cycle) (hs : EngineHolds s) : ∃ t, runCycle c s = .next t := by
  cases hc : c.complete with
  | false => exact runCycle_without_completion (s := s) (.inl hc) ▸ hostAccess_answers _ _
  | true =>
    obtain ⟨v, hv⟩ := (hs.afterBeat c).completionEvent_answers
    exact runCycle_with_completion hc hv ▸ hostAccess_answers _ _

/-- Settles O7: a reset cycle answers, and of the events of another one only a completion of an empty latch would not. -/
theorem everyStepAnswers : Obligations.EveryStepAnswers := by
  intro s hs
  have hbegin : EngineHolds (beginCycle s) := hs
  unfold step clockCycle
  split
  · exact ⟨_, rfl⟩
  · exact hbegin.runCycle_answers _

/-- Settles O6: the cycle of a command word is its issue, the cycle of a completion the completion, and any other one is the
events that fall in it. -/
theorem stepRunsTheDecodedCommand : Obligations.StepRunsTheDecodedCommand := by
  intro s rest
  refine ⟨fun w i hin hb hw => ?_, fun i hin hb hi => ?_, fun c u hin hrst hu => ?_⟩
  · have hissue : step s = issue w { s with inputs := rest, irqSetNow := 0 } :=
      (step_of_inputs hin rfl).trans (writeWord_regOffset .cmd w _)
    exact ⟨latchedInstr_loadLatch hw s, fun hm => hissue.trans (issue_of_singleCycle hb hw hm),
      fun hm => hissue.trans (issue_of_multiCycle hb hw hm)⟩
  · obtain ⟨t, hexec, hcomplete⟩ := completionEvent_of_busy (s := { s with inputs := rest, irqSetNow := 0 }) hb hi
    exact ⟨t, hexec, (step_of_inputs hin rfl).trans (runCycle_with_completion rfl hcomplete)⟩
  · have hcycle := step_of_inputs hin hrst
    change u = afterBeat c _ at hu
    subst hu
    refine ⟨fun h => hcycle.trans (runCycle_without_completion h), fun i hc hb hi => ?_⟩
    obtain ⟨v, hexec, hcomplete⟩ := completionEvent_of_busy hb hi
    exact ⟨v, hexec, hcycle.trans (runCycle_with_completion hc hcomplete)⟩

end Sys2Proof.Machine
end

section
/-! PROOFS. The interrupt status (10_state R30, 60 R234, R235, R238): the events each part of a cycle raises, the acknowledge that
spares them, and the output. -/

namespace Sys2Proof.Machine

/-! ## What a beat raises (R234) -/

/-- The interrupt events of an accepted beat: DEC_TERM of a terminating one, DEC_DONE of the last one (42 R158, R163). -/
def beatEvents (b : Beat) (s : State) : BitVec 5 :=
  (if s.dstate = .run ∧ terminates (advanceCounts s) = true then irqDecTerm else 0#5) ||| (if b.last then irqDecDone else 0#5)

theorem finishBeat_raises (c : Option (Bool × Word)) (b : Beat) (s : State) :
    Raises (if b.last then irqDecDone else 0#5) s (finishBeat c b s) := by
  cases hlast : b.last <;> simp [Raises, hlast]

theorem acceptBeat_raises {b : Beat} {s : State} (hd : s.dstate ≠ .idle) : Raises (beatEvents b s) s (acceptBeat b s) := by
  have hquiet (h : ¬ (s.dstate = .run ∧ terminates (advanceCounts s) = true)) {t : State} {c : Option (Bool × Word)}
      (ht : Raises 0#5 s t) : Raises (beatEvents b s) s (finishBeat c b t) := by
    rw [beatEvents, if_neg h]
    exact ht.trans (finishBeat_raises c b t)
  apply acceptBeat_keeps (Raises (beatEvents b s) s)
  case hidle => exact fun hi => absurd hi hd
  case hterm =>
    intro hrun hterm
    rw [beatEvents, if_pos ⟨hrun, hterm⟩]
    exact Raises.trans (t := terminate (advanceCounts s)) ⟨rfl, rfl⟩ (finishBeat_raises none b _)
  case hcommit =>
    intro _ hterm _
    exact hquiet (by simp [hterm]) (by simp [Raises])
  case hpass =>
    intro _ hterm _
    exact hquiet (by simp [hterm]) (by simp [Raises])
  case hdrain => exact fun hdrain => hquiet (by simp [hdrain]) (.refl s)

/-! ## The bits of the events -/

theorem completionBits_cmdDone (c : ErrCode) : (completionBits c).getLsbD 2 = true := by
  cases c <;> rfl

theorem completionBits_cmdErr (c : ErrCode) : (completionBits c).getLsbD 3 = decide (c ≠ .ok) := by
  cases c <;> rfl

/-- A completion sets no bit but CMD_DONE and CMD_ERR. -/
theorem completionBits_others (c : ErrCode) {j : Nat} (hj : j ∈ [0, 1, 4]) : (completionBits c).getLsbD j = false := by
  revert j
  cases c <;> decide

theorem beatEvents_decDone (b : Beat) (s : State) : (beatEvents b s).getLsbD 0 = b.last := by
  unfold beatEvents
  cases b.last <;> split <;> rfl

theorem beatEvents_decTerm (b : Beat) (s : State) :
    (beatEvents b s).getLsbD 1 =
      decide (s.dstate = .run ∧ s.gapThr.toNat < min (s.gapcnt.toNat + 1) 0xFFFFFFFF ∧ 6 ≤ s.bitcnt.toNat) := by
  simp only [beatEvents, terminates_advance]
  split
  · rw [decide_eq_true ‹_›]
    cases b.last <;> rfl
  · rw [decide_eq_false ‹_›]
    cases b.last <;> rfl

/-- A beat sets no bit but DEC_DONE and DEC_TERM. -/
theorem beatEvents_others (b : Beat) (s : State) {j : Nat} (hj : j ∈ [2, 3, 4]) : (beatEvents b s).getLsbD j = false := by
  revert j
  unfold beatEvents
  cases b.last <;> split <;> decide

/-! ## The acknowledge (R238) -/

theorem acknowledge_getLsbD (w : Word) (s : State) {j : Nat} (hj : j < 5) :
    (acknowledge w s).irqStatus.getLsbD j = (s.irqStatus.getLsbD j && (!w.getLsbD j || s.irqSetNow.getLsbD j)) := by
  simp [acknowledge, hj, Bool.not_and]

/-- After a cycle's events `bits` an acknowledge leaves these set, and clears of the other bits those written as 1. -/
theorem Raises.acknowledge_getLsbD {bits : BitVec 5} {s v : State} (h : Raises bits s v) (hstart : s.irqSetNow = 0#5) (w : Word)
    {j : Nat} (hj : j < 5) :
    (acknowledge w v).irqStatus.getLsbD j = (bits.getLsbD j || (s.irqStatus.getLsbD j && !w.getLsbD j)) := by
  obtain ⟨hstatus, hnow⟩ := h
  rw [Machine.acknowledge_getLsbD w v hj, hstatus, hnow, hstart, BitVec.getLsbD_or, BitVec.getLsbD_or, BitVec.getLsbD_zero]
  cases bits.getLsbD j <;> simp

theorem writeWord_irqStatus (w : Word) (s : State) : writeWord 0x01C w s = .next (acknowledge w s) :=
  writeWord_regOffset .irqStatus w s

/-! ## A cycle with an acknowledge -/

section AcknowledgeCycle
variable {s : State} {c : Cycle}

/-- Outside IDLE a cycle that offers a beat raises the events of the beat. -/
theorem afterBeat_raises {b : Beat} {more : List Beat} (hvalid : c.sValid = true) (hd : s.dstate ≠ .idle)
    (hsource : s.source = b :: more) : Raises (beatEvents b s) s (afterBeat c s) := by
  rw [afterBeat, if_pos hvalid, takeBeat_of_ne_idle hd hsource]
  exact acceptBeat_raises (s := { s with source := more }) hd

/-- A completion in a cycle raises the bits of the code it leaves in `ERR`. -/
theorem completionEvent_raises {t : State} (hb : s.busy = true) (h : completionEvent s = .next t) :
    Raises (completionBits t.err) s t := by
  obtain ⟨hidle, -⟩ | ⟨-, i, u, -, hexec, rfl⟩ := completionEvent_cases h
  · exact absurd (hb.symm.trans hidle) (by decide)
  · exact (exec_raises hexec :)

/-- The interrupt events of the completion of a cycle, where one falls and is enabled; `v` is the state it leaves. -/
def completionEvents (complete : Bool) (s v : State) : BitVec 5 :=
  if complete = true ∧ s.busy = true then completionBits v.err else 0#5

theorem completionEvents_of_completion {complete : Bool} (v : State) (hc : complete = true) (hb : s.busy = true) :
    completionEvents complete s v = completionBits v.err := if_pos ⟨hc, hb⟩

theorem completionEvents_without_completion {complete : Bool} (v : State) (h : complete = false ∨ s.busy = false) :
    completionEvents complete s v = 0#5 := if_neg (by simpa [← Bool.not_eq_true, ← not_and_or] using h)

theorem completionEvents_others (complete : Bool) (s v : State) {j : Nat} (hj : j ∈ [0, 1, 4]) :
    (completionEvents complete s v).getLsbD j = false := by
  unfold completionEvents
  split
  · exact completionBits_others v.err hj
  · exact BitVec.getLsbD_zero

/-- The cycle acknowledges in the state that its beat, and its completion if one falls and is enabled, leave. -/
theorem step_acknowledge {w : Word} {rest : List Cycle} (hin : s.inputs = c :: rest) (hrst : c.rst = false)
    (hhost : c.host = some (.write 0x01C w)) (hs : EngineHolds s) :
    ∃ v, step s = .next (acknowledge w v) ∧ (c.complete = true → v.busy = false) ∧
      Raises (completionEvents c.complete s v) (afterBeat c (beginCycle s)) v := by
  have hcycle : step s = runCycle c (beginCycle s) := by
    rw [step_of_inputs hin hrst, beginCycle, hin, List.tail_cons]
  have hbusy : (afterBeat c (beginCycle s)).busy = s.busy := afterBeat_busy c _
  by_cases h : c.complete = true ∧ s.busy = true
  · obtain ⟨hc, hb⟩ := h
    have hengine : EngineHolds (beginCycle s) := hs
    obtain ⟨v, hv⟩ := (hengine.afterBeat c).completionEvent_answers
    rw [runCycle_with_completion hc hv, hhost] at hcycle
    refine ⟨v, hcycle.trans (writeWord_irqStatus w v), fun _ => completionEvent_busy hv, ?_⟩
    rw [completionEvents_of_completion v hc hb]
    exact completionEvent_raises (hbusy.trans hb) hv
  · rw [not_and_or, Bool.not_eq_true, Bool.not_eq_true] at h
    rw [runCycle_without_completion (h.imp_right hbusy.trans), hhost] at hcycle
    refine ⟨_, hcycle.trans (writeWord_irqStatus w _), fun hc => hbusy.trans (h.resolve_left (by simp [hc])), ?_⟩
    rw [completionEvents_without_completion _ h]
    exact .refl _

end AcknowledgeCycle

/-- Settles O42: the acknowledge finds in `irqSetNow` the events of the cycle's beat and completion. -/
theorem acknowledgeClearsAndSetWins : Obligations.AcknowledgeClearsAndSetWins := by
  refine ⟨fun s w => ?write, fun s w rest hin => ?alone, fun s w rest hin hb hs => ?completion,
    fun s w rest b more complete hin hsource hd hs => ?beat⟩
  case write => exact ⟨_, writeWord_irqStatus w s, rfl, fun j hj => acknowledge_getLsbD w s hj⟩
  case alone =>
    refine ⟨_, (step_hostCycle hin).trans (writeWord_irqStatus w _), fun j hj => ?_⟩
    rw [(Raises.refl (beginCycle s)).acknowledge_getLsbD rfl w hj, BitVec.getLsbD_zero, Bool.false_or]
    rfl
  case completion =>
    obtain ⟨v, hstep, hidle, hraises⟩ := step_acknowledge hin rfl rfl hs
    rw [completionEvents_of_completion v rfl hb] at hraises
    have hbit {j : Nat} (hj : j < 5) : (acknowledge w v).irqStatus.getLsbD j =
        ((completionBits v.err).getLsbD j || (s.irqStatus.getLsbD j && !w.getLsbD j)) :=
      hraises.acknowledge_getLsbD rfl w hj
    refine ⟨_, hstep, hidle rfl, ?_, ?_, fun j hj => ?_⟩
    · rw [hbit (by decide), completionBits_cmdDone, Bool.true_or]
    · rw [hbit (by decide), completionBits_cmdErr]
      rfl
    · rw [hbit (by revert j; decide), completionBits_others _ hj, Bool.false_or]
  case beat =>
    obtain ⟨v, hstep, -, hraises⟩ := step_acknowledge hin rfl rfl hs
    have hbit {j : Nat} (hj : j < 5) : (acknowledge w v).irqStatus.getLsbD j =
        ((beatEvents b s).getLsbD j || (completionEvents complete s v).getLsbD j || (s.irqStatus.getLsbD j && !w.getLsbD j)) := by
      rw [← BitVec.getLsbD_or]
      exact ((afterBeat_raises (s := beginCycle s) rfl hd hsource).trans hraises).acknowledge_getLsbD rfl w hj
    refine ⟨_, hstep, ?_, ?_, fun hc hb => ⟨?_, ?_⟩, fun hno => ?_, ?_⟩
    · rw [hbit (by decide), beatEvents_decDone, completionEvents_others _ _ _ (by decide), Bool.or_false]
    · rw [hbit (by decide), beatEvents_decTerm, completionEvents_others _ _ _ (by decide), Bool.or_false]
    · rw [hbit (by decide), completionEvents_of_completion v hc hb, completionBits_cmdDone, Bool.or_true, Bool.true_or]
    · rw [hbit (by decide), completionEvents_of_completion v hc hb, completionBits_cmdErr, beatEvents_others _ _ (by decide),
        Bool.false_or]
      rfl
    · constructor
      all_goals
        rw [hbit (by decide), completionEvents_without_completion v hno, beatEvents_others _ _ (by decide)]
        rfl
    · rw [hbit (by decide), beatEvents_others _ _ (by decide), completionEvents_others _ _ _ (by decide), Bool.false_or,
        Bool.false_or]

/-! ## The output (R235) -/

/-- Settles O43: status and enable meet just where a bit is set in both. -/
theorem interruptLevel : Obligations.InterruptLevel := by
  intro s
  rw [irq, decide_eq_true_eq, ne_eq, BitVec.eq_of_getLsbD_eq_iff]
  simp [BitVec.getLsbD_and]

end Sys2Proof.Machine
end

section
/-! PROOFS. What a command leaves alone (70 R266, R269, R272, 20_memory R82): the fields no command writes, the fields only some
commands write, and the operand registers, which no command reads. -/

namespace Sys2Proof.Machine

/-! ## What a command writes -/

/-- Every field not listed here is written by no command. -/
theorem exec_writes_only {i : Instr} {s t : State} (h : exec i s = .next t) :
    t = { s with
          dstate := t.dstate, done := t.done, term := t.term, ovf := t.ovf, found := t.found, err := t.err,
          irqStatus := t.irqStatus, irqSetNow := t.irqSetNow, tcnt := t.tcnt, gapcnt := t.gapcnt, lastpol := t.lastpol,
          bitcnt := t.bitcnt, sidx := t.sidx, frameOffset := t.frameOffset, outlen := t.outlen, result := t.result,
          ahave := t.ahave, aval := t.aval, asince := t.asince, aidx := t.aidx, outbuf := t.outbuf } := by
  cases exec_cases h with
  | stored bytes =>
    rw [outWriteAll_eq]
    rfl
  | _ => rfl

/-- Only CLEAR and DECODE touch the capture (70 R269). -/
theorem exec_keeps_capture {i : Instr} {s t : State} (h : exec i s = .next t) (hclear : i ≠ .clear) (hdecode : i ≠ .decode) :
    captureOf t = captureOf s := by
  cases exec_cases h with
  | cleared hi => exact absurd hi hclear
  | started hi => exact absurd hi hdecode
  | stored bytes =>
    rw [outWriteAll_eq]
    rfl
  | _ => rfl

/-- Only CLEAR and the four commands with a result word write `RESULT` (10_state R48). -/
theorem exec_keeps_result {i : Instr} {s t : State} (h : exec i s = .next t)
    (hi : i ∉ [.clear, .sign, .clamp, .edge, .revb]) : t.result = s.result := by
  cases exec_cases h with
  | cleared hclear => simp [hclear] at hi
  | computed v hcomputed => obtain rfl | rfl | rfl | rfl := hcomputed <;> simp at hi
  | stored bytes => simp
  | _ => rfl

/-- Only CLEAR, DECODE and LOCATE write `FOUND` and `FRAME_OFFSET` (10_state R40). -/
theorem exec_keeps_location {i : Instr} {s t : State} (h : exec i s = .next t) (hi : i ∉ [.clear, .decode, .locate]) :
    t.found = s.found ∧ t.frameOffset = s.frameOffset := by
  cases exec_cases h with
  | cleared hclear => simp [hclear] at hi
  | started hdecode => simp [hdecode] at hi
  | located k hlocate => simp [hlocate] at hi
  | notLocated hlocate => simp [hlocate] at hi
  | stored bytes => simp
  | _ => exact ⟨rfl, rfl⟩

/-- LOCATE is the multi-cycle command that stores nothing (44 R192). -/
theorem exec_locate_output {s t : State} (h : exec .locate s = .next t) : t.outlen = s.outlen ∧ t.outbuf = s.outbuf := by
  rw [exec, execLocate_eq] at h
  split at h
  · cases h
    exact ⟨rfl, rfl⟩
  · split at h <;> cases h <;> exact ⟨rfl, rfl⟩

/-- What a command does to the output: nothing, but for CLEAR, which empties it, and for CHUNK, HEXB and ADDR, which store bytes
that fit and report OK. -/
theorem exec_output {i : Instr} {s t : State} (h : exec i s = .next t) :
    (t.outbuf = s.outbuf ∧ (t.outlen = s.outlen ∨ i = .clear)) ∨
    (i.isMultiCycle = true ∧ i ≠ .locate ∧ t.err = .ok ∧
      ∃ bytes : List Byte, s.latch.dst.toNat + bytes.length ≤ s.params.outbufDepth ∧
        t.outlen = BitVec.ofNat 32 bytes.length ∧ t.outbuf = (outWriteAll s.latch.dst.toNat bytes s).outbuf) := by
  by_cases hlocate : i = .locate
  · subst hlocate
    obtain ⟨houtlen, houtbuf⟩ := exec_locate_output h
    exact .inl ⟨houtbuf, .inl houtlen⟩
  cases exec_cases h with
  | cleared hi => exact .inl ⟨rfl, .inr hi⟩
  | stored bytes hi hfit => exact .inr ⟨hi, hlocate, rfl, bytes, hfit, rfl, rfl⟩
  | _ => exact .inl ⟨rfl, .inl rfl⟩

/-- A byte outside the `OUTLEN` bytes from the latched destination reads as before; in a legal build `OUTLEN` holds the number of
bytes stored. -/
theorem exec_outRead {i : Instr} {s t : State} (h : exec i s = .next t) (hlegal : s.params.Legal) {a : Nat}
    (ha : a < s.latch.dst.toNat ∨ s.latch.dst.toNat + t.outlen.toNat ≤ a) : outRead t a = outRead s a := by
  obtain ⟨houtbuf, -⟩ | ⟨-, -, -, bytes, hfit, houtlen, houtbuf⟩ := exec_output h
  · rw [outRead, houtbuf, outRead]
  · obtain ⟨-, hdepth⟩ := outbufDepth_range hlegal
    have hcount : t.outlen.toNat = bytes.length := by
      rw [houtlen]
      exact (BitVec.toNat_ofNat _ _).trans (Nat.mod_eq_of_lt (by omega))
    obtain ⟨-, hother⟩ := storedAt_outWriteAll s.latch.dst.toNat bytes s
    rw [hcount] at ha
    rw [outRead, houtbuf]
    exact hother a ha

/-- Settles O24: clause by clause, what the command writes, and the stored bytes as `OUTLEN` counts them. -/
theorem commandFrame : Obligations.CommandFrame := by
  intro i s t h
  refine ⟨?fixed, fun hclear hdecode => ?capture, exec_keeps_result h, exec_keeps_location h, fun hclear hi => ?outlen,
    fun hi => ?outbuf, fun a ha hlegal => exec_outRead h hlegal ha⟩
  case fixed =>
    rw [exec_writes_only h]
    simp only [and_self]
  case capture =>
    have hfield {α : Type} (f : State → α) := congrArg f (exec_keeps_capture h hclear hdecode)
    exact ⟨hfield (·.dstate), hfield (·.done), hfield (·.term), hfield (·.ovf), hfield (·.tcnt), hfield (·.gapcnt),
      hfield (·.lastpol), hfield (·.bitcnt), hfield (·.sidx), hfield (·.ahave), hfield (·.aval), hfield (·.asince),
      hfield (·.aidx)⟩
  case outlen =>
    obtain ⟨-, houtlen⟩ | ⟨hmulti, hlocate, -⟩ := exec_output h
    · exact houtlen.resolve_right hclear
    · simp [hmulti, hlocate] at hi
  case outbuf =>
    obtain ⟨houtbuf, -⟩ | ⟨hmulti, hlocate, hok, -⟩ := exec_output h
    · exact houtbuf
    · simp [hmulti, hlocate, hok] at hi

/-! ## What a command reads (R266) -/

section Operands
variable (src len dst opa opb opc : Word)

theorem outWriteAll_withOperands (i : Nat) (bs : List Byte) (s : State) :
    outWriteAll i bs (withOperands src len dst opa opb opc s) = withOperands src len dst opa opb opc (outWriteAll i bs s) := by
  induction bs generalizing i s with
  | nil => rfl
  | cons b rest ih => exact ih (i + 1) (outWrite i b s)

/-- A store takes its destination from the latch. -/
theorem storeOut_withOperands (bytes : List Byte) (s : State) :
    storeOut bytes (withOperands src len dst opa opb opc s) = withOperands src len dst opa opb opc (storeOut bytes s) := by
  obtain hfull | hfits := Nat.lt_or_ge s.params.outbufDepth (s.latch.dst.toNat + bytes.length)
  · rw [storeOut_of_full hfull]
    exact storeOut_of_full hfull
  · rw [storeOut_of_fits hfits, storeOut_of_fits (s := withOperands src len dst opa opb opc s) hfits, outWriteAll_withOperands]
    rfl

@[simp] theorem withOperands_dstate (s : State) : (withOperands src len dst opa opb opc s).dstate = s.dstate := rfl

@[simp] theorem withOperands_latch (s : State) : (withOperands src len dst opa opb opc s).latch = s.latch := rfl

/-- The octets of a range are BITBUF's (45 R200). -/
theorem srcOctets_withOperands (first count : Word) (r : Bool) (s : State) :
    srcOctets first count r (withOperands src len dst opa opb opc s) = srcOctets first count r s := rfl

/-- CHUNK and ADDR take their range from the latch. -/
theorem formatRange_withOperands (text : List Byte → List Byte) (r : Bool) (s : State) :
    formatRange text r (withOperands src len dst opa opb opc s) =
      andThen (formatRange text r s) (fun t => .next (withOperands src len dst opa opb opc t)) := by
  simp only [formatRange, withOperands_dstate, withOperands_latch, srcOctets_withOperands]
  by_cases hd : s.dstate = .run
  · simp only [hd, if_true]
    rfl
  · simp only [hd, if_false]
    cases srcOctets s.latch.src s.latch.len r s with
    | error code => rfl
    | ok octets => exact congrArg _ (storeOut_withOperands ..)

/-- A command runs alike whatever the operand registers hold, and leaves them as they are. -/
theorem exec_withOperands (i : Instr) (s : State) :
    exec i (withOperands src len dst opa opb opc s) =
      andThen (exec i s) (fun t => .next (withOperands src len dst opa opb opc t)) := by
  cases i with
  | nop | clear | sign | edge | revb => rfl
  | decode =>
    by_cases hd : s.dstate = .idle
    · rw [exec_decode_of_idle hd]
      exact exec_decode_of_idle hd
    · rw [exec_decode_of_ne_idle hd]
      exact exec_decode_of_ne_idle hd
  | clamp =>
    obtain hlt | hle := Int.lt_or_le s.latch.opc.toInt s.latch.opb.toInt
    · rw [exec_clamp_of_lt hlt]
      exact exec_clamp_of_lt hlt
    · rw [exec_clamp_of_le hle]
      exact exec_clamp_of_le hle
  | locate =>
    by_cases hd : s.dstate = .run
    · rw [exec_locate_of_run hd]
      exact exec_locate_of_run hd
    · cases hk : firstMatch s with
      | some k =>
        rw [exec_locate_of_match hd hk]
        exact exec_locate_of_match hd hk
      | none =>
        rw [exec_locate_of_no_match hd hk]
        exact exec_locate_of_no_match hd hk
  | chunk r =>
    rw [exec_chunk, exec_chunk]
    exact formatRange_withOperands ..
  | hexb pad => exact congrArg _ (storeOut_withOperands ..)
  | addr r pad =>
    rw [exec_addr, exec_addr]
    exact formatRange_withOperands ..

end Operands

/-- Settles O25: the command of the altered state is the command of `s`, with the registers altered in its answer. -/
theorem commandsReadOnlyTheLatch : Obligations.CommandsReadOnlyTheLatch := by
  intro i s t src len dst opa opb opc h
  rw [exec_withOperands, h]
  rfl

end Sys2Proof.Machine
end

section
/-! PROOFS. Reset (10_state R54, 70 R260 to R262): what the host sees of the state after it, the cycle in which it is asserted,
and the invariants it establishes. -/

namespace Sys2Proof.Machine

/-! ## The register view (R261) -/

/-- Every offset of the BITBUF window, aligned or not, names one of its words (20_memory R71, R77). -/
theorem exists_placeOf_bitWindow {offset : BitVec 16} (hlo : 0x4000 ≤ offset.toNat) (hhi : offset.toNat < 0x8000) :
    ∃ k, placeOf offset = .bitWindow k := by
  refine ⟨(offset.toNat - 0x4000) / 4, (placeOf_congr ?_).trans (placeOf_bitWindow (by omega))⟩
  rw [BitVec.toNat_ofNat]
  omega

/-- An empty BitString shows zeros (20_memory R77). -/
theorem bitWindowWord_of_empty {s : State} (h : bitLen s = 0) (k : Nat) : bitWindowWord k s = 0 := by
  refine BitVec.eq_of_getLsbD_eq fun j hj => ?_
  rw [bitWindowWord_getLsbD k s hj, h]
  simp

/-- With no bit counted the BitString is empty (10_state R38). -/
theorem bitLen_of_no_bits {s : State} (h : s.bitcnt = 0) : bitLen s = 0 := by
  simp [bitLen, h]

theorem statusWord_reset : statusWord State.reset = 0 := by decide

theorem alignStateWord_reset : alignStateWord State.reset = 0 := by decide

/-- With no interrupt bit set the output is low (60 R235). -/
theorem irq_reset : irq State.reset = false := by decide

/-- Settles O33: each offset names its register, whose element holds its reset value, and the BitString is empty. -/
theorem resetRegisterView : Obligations.ResetRegisterView := by
  rintro p s rfl
  have hread := fun r => readWord_regOffset r { State.reset with params := p }
  have hempty : bitLen { State.reset with params := p } = 0 := bitLen_of_no_bits rfl
  refine ⟨hread .id, hread .version, hread .ctrl, (hread .status).trans statusWord_reset, hread .cmd, hread .err,
    hread .irqStatus, hread .irqEnable, hread .edgeThr, hread .gapThr, hread .tcnt, hread .gapcnt, hread .lastpol,
    hread .bitcnt, (hread .bitlen).trans (congrArg (BitVec.ofNat 32) hempty), hread .sidx, hread .frameOffset, hread .src,
    hread .len, hread .dst, hread .outlen, hread .opa, hread .opb, hread .opc, hread .result,
    (hread .alignState).trans alignStateWord_reset, hread .aidx, fun hp => ?default, fun hp => ?legal,
    fun offset hlo hhi => ?window, fun _ => rfl, rfl, irq_reset, rfl⟩
  case default =>
    obtain ⟨-, -, hdefault⟩ := paramsReportsTheBuild
    exact (hdefault _ hp).1
  case legal => exact (congrArg BitVec.toNat (hread .params)).trans (paramsWord_toNat hp)
  case window =>
    obtain ⟨k, hplace⟩ := exists_placeOf_bitWindow hlo hhi
    rw [readWord, hplace]
    exact bitWindowWord_of_empty hempty k

/-! ## The cycle (R260, R262) -/

theorem step_of_reset {s : State} {c : Cycle} {rest : List Cycle} (h : s.inputs = c :: rest) (hrst : c.rst = true) :
    step s = .next (resetCycle c.host { s with inputs := rest, irqSetNow := 0 }) := by
  simp [step, clockCycle, nextCycle, beginCycle, h, hrst]

/-- Settles O34: the cycle is the reset of the registers, and a read adds its four draws to the record. -/
theorem resetCycleRestoresEverything : Obligations.ResetCycleRestoresEverything := by
  intro s c rest hin hrst
  refine ⟨_, step_of_reset hin hrst, ?_⟩
  cases c.host with
  | none => exact ⟨irq_reset, rfl, by simp, fun _ => ⟨rfl, rfl⟩⟩
  | some op =>
    cases op with
    | read offset =>
      refine ⟨irq_reset, rfl, fun _ h => ?_, fun h => absurd rfl (h offset)⟩
      cases h
      exact ⟨rfl, rfl⟩
    | write offset data => exact ⟨irq_reset, rfl, by simp, fun _ => ⟨rfl, rfl⟩⟩

/-! ## The invariants (10_state R54) -/

/-- Settles O47: at reset the counts agree, the engine is idle, the buffers and the streams are empty, and no bit is committed. -/
theorem invariantsHoldAtReset : Obligations.InvariantsHoldAtReset := by
  have hbuffers : BuffersCanonical State.reset := ⟨rfl, List.forall_mem_nil _, rfl, List.forall_mem_nil _⟩
  have hflags : CaptureFlags State.reset := ⟨fun _ => rfl, nofun, fun _ => rfl, nofun⟩
  have hempty : bitLen State.reset = 0 := bitLen_of_no_bits rfl
  have hstored : BitsStored State.reset := fun i hi => absurd (hempty ▸ hi) (Nat.not_lt_zero i)
  have halign : AlignAgrees State.reset := ⟨rfl, fun _ => ⟨rfl, rfl⟩, nofun, nofun, nofun⟩
  have hindices : IndicesAreReal State.reset := ⟨List.forall_mem_nil _, List.forall_mem_nil _⟩
  have hdistance : SampleDistance State.reset := nofun
  exact ⟨rfl, hbuffers, .of_idle rfl, .of_idle rfl, hflags, hstored, rfl, .of_not_found rfl rfl, halign, hindices,
    List.forall_mem_nil _, hdistance, by decide⟩

end Sys2Proof.Machine
end
